-- ==== Sys2Proof/Word.lean ====
section
/-! DEFINITION. The unit of every encoding and of every cell of the buffer: the 8-bit byte (rules R8, R12, R60). -/

namespace Sys2Proof

/-- A byte, `0x00..0xFF`, unsigned; bit 7 is the most significant (rule R12). -/
abbrev Byte := BitVec 8

end Sys2Proof
end

