-- ==== Sys2Proof/Config.lean ====
section
/-! DEFINITION. The constants the spec fixes (rule R8) and the default of the one parameter it leaves open (rule R9).
The parameter `MAX_BUF` itself stands in `State.maxBuf`, so that a statement about every state is a statement about every
`MAX_BUF` (log entry 3). The spec leaves no value of any operation open, so there is no free value here. -/

namespace Sys2Proof.Config

/-- `DELIM`, the frame delimiter (rule R8). -/
abbrev delim : Byte := 0x7E#8
/-- `ESC`, the escape byte (rule R8). -/
abbrev esc : Byte := 0x7D#8
/-- `XON` (rule R8). -/
abbrev xon : Byte := 0x11#8
/-- `XOFF` (rule R8). -/
abbrev xoff : Byte := 0x13#8
/-- `ESC_XOR`, the bit an escape flips (rules R8, R75). -/
abbrev escXor : Byte := 0x20#8
/-- `RESERVED`, the four reserved byte values (rules R8, R100). -/
abbrev reserved : List Byte := [delim, esc, xon, xoff]
/-- The second bytes of the four escape pairs, the table form of rules R75 and R112. -/
abbrev escapedBytes : List Byte := [0x5E#8, 0x5D#8, 0x31#8, 0x33#8]
/-- `MAX_DATA`, the longest `data` of a frame (rule R8). -/
abbrev maxData : Nat := 255
/-- `MIN_ADU`, the shortest unstuffed frame body (rule R8). -/
abbrev minAdu : Nat := 4
/-- The default of `MAX_BUF`, the spec's decision D4 (rule R9). -/
abbrev defaultMaxBuf : Nat := 518

end Sys2Proof.Config
end

