-- ==== Sys2Proof/Syntax.lean ====
section
/-! DEFINITION. The instructions: one constructor per row of spec/opcode_table.json (rules R72, R73, R74, R75, R82), and the
form in which the outside world presents one to the block. -/

namespace Sys2Proof

/-- The unit a lone wire symbol is presented to: the three columns of the second table of rule R74. -/
inductive Port where
  /-- The StreamParser: the symbol is the input byte of FEED1 (rules R18, R171). -/
  | parser
  /-- STUFF's input. -/
  | stuffer
  /-- DESTUFF's input. -/
  | destuffer
  deriving DecidableEq, Repr

/-- The instruction set. The first eight constructors are the operations of format OP (rule R72) with the operands of
rule R73; the next five are the wire symbols of format SYM8 (rule R74), each presented to one unit; the last five are
the escape pairs of format ESC16 (rules R75, R107). -/
inductive Instr where
  /-- STUFF, `op` 0 (rule R102). -/
  | stuff (input : List Byte)
  /-- DESTUFF, `op` 1 (rule R106). -/
  | destuff (input : List Byte)
  /-- CSUM.COMPUTE, `op` 2 (rule R121). -/
  | csumCompute (fields : List Byte)
  /-- CSUM.VERIFY, `op` 3 (rule R126). -/
  | csumVerify (fieldsCk : List Byte)
  /-- ENCODE, `op` 4 (rule R141). More than 255 data bytes can be presented and are answered by an error (rule R73). -/
  | encode (address command : Byte) (data : List Byte)
  /-- DECODE, `op` 5 (rule R145). -/
  | decode (wireBytes : List Byte)
  /-- FEED, `op` 6 (rule R170). -/
  | feed (bytes : List Byte)
  /-- PRESET, `op` 7 (rule R190). -/
  | preset
  /-- The wire symbol DELIM, `0x7E`. -/
  | delim (port : Port)
  /-- The wire symbol ESC, `0x7D`. -/
  | esc (port : Port)
  /-- The wire symbol XON, `0x11`. -/
  | xon (port : Port)
  /-- The wire symbol XOFF, `0x13`. -/
  | xoff (port : Port)
  /-- The wire symbol LIT: any of the other 252 byte values. -/
  | lit (port : Port) (byte : Byte)
  /-- The escape pair `0x7D 0x5E`. -/
  | escDelim
  /-- The escape pair `0x7D 0x5D`. -/
  | escEsc
  /-- The escape pair `0x7D 0x31`. -/
  | escXon
  /-- The escape pair `0x7D 0x33`. -/
  | escXoff
  /-- A malformed pair: `0x7D` and any of the other 252 second bytes (rule R107). -/
  | escBad (second : Byte)
  deriving DecidableEq, Repr

/-- An instruction as it is presented: the three formats of rule R82 with exactly the bits their table rows number. How a
sequence operand's end is marked is not architectural (rule R73): here the operand is the list itself (log entry 5). -/
inductive Request where
  /-- Format OP: the 3-bit operation select and the operand bytes, first byte first. -/
  | op (select : BitVec 3) (operand : List Byte)
  /-- Format SYM8: one wire byte at one unit's input. -/
  | sym8 (port : Port) (byte : Byte)
  /-- Format ESC16: two wire bytes, the first in bits 15..8 (rule R82). -/
  | esc16 (pair : BitVec 16)
  deriving DecidableEq, Repr

/-- What the outside world can do to the block (rules R19, R230, R251). -/
inductive Input where
  /-- The caller invokes an operation, or presents a symbol. -/
  | request (r : Request)
  /-- The hardware reset of rule R230. -/
  | reset
  deriving DecidableEq, Repr

/-- The instruction's name in spec/opcode_table.json. -/
def Instr.mnemonic : Instr → String
  | .stuff _ => "STUFF"
  | .destuff _ => "DESTUFF"
  | .csumCompute _ => "CSUM.COMPUTE"
  | .csumVerify _ => "CSUM.VERIFY"
  | .encode _ _ _ => "ENCODE"
  | .decode _ => "DECODE"
  | .feed _ => "FEED"
  | .preset => "PRESET"
  | .delim _ => "DELIM"
  | .esc _ => "ESC"
  | .xon _ => "XON"
  | .xoff _ => "XOFF"
  | .lit _ _ => "LIT"
  | .escDelim => "ESC.DELIM"
  | .escEsc => "ESC.ESC"
  | .escXon => "ESC.XON"
  | .escXoff => "ESC.XOFF"
  | .escBad _ => "ESC.BAD"

end Sys2Proof
end

