-- ==== Sys2Proof/WellFormed.lean ====
section
/-! DEFINITION. Which terms of `Instr` are instructions of the block: LIT stands for a byte no more specific SYM8 row
matches, ESC.BAD for a second byte no more specific ESC16 row matches (rules R74, R82). Every other term is well formed;
in particular ENCODE takes data of any length (rule R73). -/

namespace Sys2Proof

/-- The instruction's fields lie in the range its table row gives them. -/
def Instr.wellFormed : Instr → Bool
  | .lit _ byte => byte ∉ Config.reserved
  | .escBad second => second ∉ Config.escapedBytes
  | .stuff _ | .destuff _ | .csumCompute _ | .csumVerify _ | .encode _ _ _ | .decode _ | .feed _ | .preset
  | .delim _ | .esc _ | .xon _ | .xoff _ | .escDelim | .escEsc | .escXon | .escXoff => true

end Sys2Proof
end

