-- ==== Sys2Proof/Decode.lean ====
section
/-! DEFINITION. The decoder, total on every request and rejecting by name; the encoder written from the same tables; the
rows of spec/opcode_table.json as data, with the selection rule of rule R82; and the words of the table as the host
numbers them. -/

namespace Sys2Proof

/-- Why a request names no instruction. No `op` code is illegal (rule R78 (f)); these are requests the interface of rule
R73 does not have. -/
inductive DecodeError where
  /-- ENCODE without its address and command bytes. -/
  | missingOperand
  /-- PRESET with operand bytes. -/
  | unexpectedOperand
  /-- A pair whose first byte is not `0x7D`: no row of format ESC16 matches it. -/
  | notAnEscapePair
  deriving DecidableEq, Repr

/-- The operation a select code and its operand bytes name (rules R72, R73). -/
def decodeOp (select : BitVec 3) (operand : List Byte) : Except DecodeError Instr :=
  match select.toFin with
  | 0 => .ok (.stuff operand)
  | 1 => .ok (.destuff operand)
  | 2 => .ok (.csumCompute operand)
  | 3 => .ok (.csumVerify operand)
  | 4 =>
    match operand with
    | address :: command :: data => .ok (.encode address command data)
    | [_] | [] => .error .missingOperand
  | 5 => .ok (.decode operand)
  | 6 => .ok (.feed operand)
  | 7 =>
    match operand with
    | [] => .ok .preset
    | _ :: _ => .error .unexpectedOperand

/-- The class of a wire byte (rule R74). -/
def decodeSym8 (port : Port) (byte : Byte) : Instr :=
  if byte = Config.delim then .delim port
  else if byte = Config.esc then .esc port
  else if byte = Config.xon then .xon port
  else if byte = Config.xoff then .xoff port
  else .lit port byte

/-- The pair a 16-bit word names, its first byte in bits 15..8 (rules R75, R82). -/
def decodeEsc16 (pair : BitVec 16) : Except DecodeError Instr :=
  if pair.extractLsb' 8 8 = Config.esc then
    let second : Byte := pair.extractLsb' 0 8
    .ok (if second = 0x5E#8 then .escDelim
      else if second = 0x5D#8 then .escEsc
      else if second = 0x31#8 then .escXon
      else if second = 0x33#8 then .escXoff
      else .escBad second)
  else .error .notAnEscapePair

/-- The instruction a request names, or why it names none. -/
def decode : Request → Except DecodeError Instr
  | .op select operand => decodeOp select operand
  | .sym8 port byte => .ok (decodeSym8 port byte)
  | .esc16 pair => decodeEsc16 pair

/-- The escape pair with a given second byte, as the 16-bit word of rule R75. -/
def pairWord (second : Byte) : BitVec 16 := Config.esc ++ second

/-- The request that presents an instruction (rules R72, R73, R74, R75). -/
def encode : Instr → Request
  | .stuff input => .op 0b000#3 input
  | .destuff input => .op 0b001#3 input
  | .csumCompute fields => .op 0b010#3 fields
  | .csumVerify fieldsCk => .op 0b011#3 fieldsCk
  | .encode address command data => .op 0b100#3 (address :: command :: data)
  | .decode wireBytes => .op 0b101#3 wireBytes
  | .feed bytes => .op 0b110#3 bytes
  | .preset => .op 0b111#3 []
  | .delim port => .sym8 port 0b01111110#8
  | .esc port => .sym8 port 0b01111101#8
  | .xon port => .sym8 port 0b00010001#8
  | .xoff port => .sym8 port 0b00010011#8
  | .lit port byte => .sym8 port byte
  | .escDelim => .esc16 (pairWord 0b01011110#8)
  | .escEsc => .esc16 (pairWord 0b01011101#8)
  | .escXon => .esc16 (pairWord 0b00110001#8)
  | .escXoff => .esc16 (pairWord 0b00110011#8)
  | .escBad second => .esc16 (pairWord second)

/-- A row of spec/opcode_table.json: its mnemonic, `match` and `mask`. -/
structure TableRow where
  mnemonic : String
  pattern : Nat
  mask : Nat
  deriving DecidableEq, Repr

/-- The rows of format OP. -/
def opRows : List TableRow :=
  [⟨"STUFF", 0x0, 0x7⟩, ⟨"DESTUFF", 0x1, 0x7⟩, ⟨"CSUM.COMPUTE", 0x2, 0x7⟩, ⟨"CSUM.VERIFY", 0x3, 0x7⟩,
   ⟨"ENCODE", 0x4, 0x7⟩, ⟨"DECODE", 0x5, 0x7⟩, ⟨"FEED", 0x6, 0x7⟩, ⟨"PRESET", 0x7, 0x7⟩]

/-- The rows of format SYM8. -/
def sym8Rows : List TableRow :=
  [⟨"DELIM", 0x7E, 0xFF⟩, ⟨"ESC", 0x7D, 0xFF⟩, ⟨"XON", 0x11, 0xFF⟩, ⟨"XOFF", 0x13, 0xFF⟩, ⟨"LIT", 0x00, 0x00⟩]

/-- The rows of format ESC16. -/
def esc16Rows : List TableRow :=
  [⟨"ESC.DELIM", 0x7D5E, 0xFFFF⟩, ⟨"ESC.ESC", 0x7D5D, 0xFFFF⟩, ⟨"ESC.XON", 0x7D31, 0xFFFF⟩,
   ⟨"ESC.XOFF", 0x7D33, 0xFFFF⟩, ⟨"ESC.BAD", 0x7D00, 0xFF00⟩]

/-- A row matches a word when the masked word is the row's pattern. -/
def TableRow.matchesWord (row : TableRow) (w : Nat) : Bool := w &&& row.mask == row.pattern

/-- The row that decodes a word: the one with the most mask bits among those it matches (rule R82). Within each format a
row with more mask bits has the larger mask, so the comparison is of the masks. -/
def bestRow (rows : List TableRow) (w : Nat) : Option TableRow :=
  (rows.filter (·.matchesWord w)).foldl
    (fun best row =>
      match best with
      | none => some row
      | some b => if b.mask < row.mask then some row else some b) none

/-- The request a table word stands for: bits numbered as spec/opcode_table.json numbers them, operand bits zero. A word
of at most 8 bits below 8 is an operation select and any other such word a wire byte at the StreamParser's input; a word
of 9 to 16 bits is a pair (log entry 6: an OP word and the LIT byte of the same value cannot be told apart here). -/
def tableRequest (nbits w : Nat) : Option Request :=
  if nbits ≤ 8 then
    if w < 8 then some (.op (BitVec.ofNat 3 w) (if w = 4 then [0x00#8, 0x00#8] else []))
    else if w < 256 then some (.sym8 .parser (BitVec.ofNat 8 w))
    else none
  else if nbits ≤ 16 then
    if w < 65536 then some (.esc16 (BitVec.ofNat 16 w)) else none
  else none

/-- The instruction the decoder reads from a table word. -/
def decodeTableWord (nbits w : Nat) : Option Instr :=
  match tableRequest nbits w with
  | none => none
  | some r =>
    match decode r with
    | .ok i => some i
    | .error _ => none

end Sys2Proof
end

