-- ==== Sys2Proof/Machine/State.lean ====
section
/-! DEFINITION. The state, as plain data, and the values that travel between the block and its caller.

The only architectural state is `State.ps` (rule R20). `maxBuf` is the instance's parameter `MAX_BUF` (rule R9, log entry
3). `inputs` and `response` are the model's own: what the outside world has yet to present, and the result the last
operation delivered (rules R36, R73, log entries 1 and 2). -/

namespace Sys2Proof.Machine

/-- `ps.tag` (rule R21). -/
inductive Tag where
  /-- "no frame in progress". -/
  | idle
  /-- "between a start delimiter and the next delimiter, buffering raw — still-stuffed — bytes". -/
  | accumulating
  /-- "corruption detected, discarding until resynchronized". -/
  | error
  deriving DecidableEq, Repr

/-- The accumulation buffer as a memory (rules R22, R30, R40): byte-wide cells at the indexes `0 .. length - 1`, so the
list is its own canonical form: the cell at index `i` is the element at position `i`, and an index past the end has no
cell (log entry 4). -/
abbrev Memory := List Byte

/-- ParserState, "accumulation buffer plus a small state tag" (rule R20). -/
structure ParserState where
  tag : Tag
  buf : Memory
  deriving DecidableEq, Repr

/-- The seven errors (rule R200). They carry nothing but their name (rule R202). -/
inductive Error where
  | dataTooLong
  | invalidEscape
  | missingDelimiter
  | frameTooShort
  | lengthMismatch
  | checksumMismatch
  | frameTooLarge
  deriving DecidableEq, Repr

/-- The result of an operation: `Ok(v)` or `Err(E)` (rules R15, R34). -/
inductive Result (α : Type) where
  | ok (value : α)
  | err (error : Error)
  deriving DecidableEq, Repr

/-- Frame (rule R32). Its checksum is derived, not independently settable, and takes no part in equality: it is the
function `Frame.checksum` (Machine/FrameCodec.lean). -/
structure Frame where
  address : Byte
  command : Byte
  data : List Byte
  deriving DecidableEq, Repr

/-- One element of the sequence FEED returns (rule R34). -/
abbrev Event := Result Frame

/-- What an operation delivers to its caller, in the result types of rule R73. -/
inductive Response where
  /-- A byte sequence: STUFF, DESTUFF, ENCODE. -/
  | bytes (result : Result (List Byte))
  /-- A byte: CSUM.COMPUTE. -/
  | byte (result : Result Byte)
  /-- A boolean: CSUM.VERIFY. -/
  | bool (result : Result Bool)
  /-- A Frame: DECODE. -/
  | frame (result : Result Frame)
  /-- A sequence of events: FEED. -/
  | events (events : List Event)
  /-- PRESET, which has no result. -/
  | done
  deriving DecidableEq, Repr

/-- The machine. -/
structure State where
  /-- The architectural state (rule R20). -/
  ps : ParserState
  /-- `MAX_BUF`, fixed for the life of the instance; no step changes it (rules R9, R26). -/
  maxBuf : Nat
  /-- The model's own: what the outside world presents, first element first (rules R19, R52). -/
  inputs : List Input
  /-- The model's own: the result of the most recent operation, none before the first (rules R36, R73). -/
  response : Option Response
  deriving DecidableEq, Repr

/-- The reset value of ParserState (rules R35, R230, R231). -/
def ParserState.reset : ParserState := { tag := .idle, buf := [] }

/-- The machine right after reset: ParserState as rules R35 and R231 say, `MAX_BUF` at its default (rule R9), nothing
presented and nothing delivered (rule R232). -/
def State.reset : State :=
  { ps := ParserState.reset, maxBuf := Config.defaultMaxBuf, inputs := [], response := none }

/-- The reasons the machine can stop with a fault: none. "There is no error that stops the block" (rule R204): every
error of the spec is a `Result.err`, after which the machine goes on. -/
inductive Fault where
  deriving DecidableEq, Repr

/-- The reasons a step can have no meaning. -/
inductive Refusal where
  /-- Raised by an arm of `exec` for an instruction not modelled yet; no arm raises it now. Safe. -/
  | notModelled (mnemonic : String)
  /-- Raised by `step` alone, for a request that names no instruction: the interface of rule R73 has no such request. Safe:
  the machine stops where the spec says nothing (log entry 5). -/
  | undecodable (error : DecodeError)
  deriving DecidableEq, Repr

end Sys2Proof.Machine
end

