-- ==== Sys2Proof/Machine/Ops.lean ====
section
/-! DEFINITION. The operations over the buffer and the state that the meanings share, and the delivery of an error
(rules R14, R40 to R43, R210, R211) with the recovery from one beside it (rules R186, R214). -/

namespace Sys2Proof.Machine

/-! ### Results -/

/-- Apply a function to the value of an `Ok`; an `Err` passes unchanged. -/
def Result.map {α β : Type} (f : α → β) : Result α → Result β
  | .ok v => .ok (f v)
  | .err e => .err e

/-- Go on with the value of an `Ok`; "raise E" ends the operation at once (rule R15). -/
def Result.andThen {α β : Type} (r : Result α) (f : α → Result β) : Result β :=
  match r with
  | .ok v => f v
  | .err e => .err e

/-! ### The accumulation buffer -/

/-- The byte at an index, if the buffer has a cell there (rule R40). -/
def Memory.readByte (m : Memory) (index : Nat) : Option Byte := m[index]?

/-- `MemRead(addr, n)`, defined only for `addr + n <= len(ps.buf)` (rule R14). -/
def Memory.read (m : Memory) (addr n : Nat) : Option (List Byte) :=
  if addr + n ≤ m.length then some ((m.drop addr).take n) else none

/-- `MemWrite(addr, n, v)`, defined only for `n = 1` and `addr = len(ps.buf)` (rule R14). -/
def Memory.write (m : Memory) (addr n : Nat) (v : Byte) : Option Memory :=
  if n = 1 ∧ addr = m.length then some (m ++ [v]) else none

/-- Append, `MemWrite(len(ps.buf), 1, b)` (rule R41). -/
def Memory.store (m : Memory) (b : Byte) : Memory := m ++ [b]

/-- Whole-span read, `MemRead(0, len(ps.buf))` (rule R42). -/
def Memory.span (m : Memory) : List Byte := m

/-- `BufClear()` (rule R43): whatever the buffer held is gone. -/
def Memory.clear (_ : Memory) : Memory := []

/-- The form every buffer has (rules R22, R23 (c), (d)): no delimiter, at most `MAX_BUF` bytes. -/
def Memory.wf (maxBuf : Nat) (m : Memory) : Bool := decide (Config.delim ∉ m) && decide (m.length ≤ maxBuf)

/-! ### ParserState -/

/-- What a delimiter leaves in every state: `Accumulating` with an empty buffer (rules R174, R176, R186, R194). After an
error this is the return from it, automatic and with nothing to acknowledge (rule R214). -/
def ParserState.startSpan (ps : ParserState) : ParserState := { tag := .accumulating, buf := ps.buf.clear }

/-- Reset and PRESET: `Idle` with an empty buffer (rules R190, R230). -/
def ParserState.toIdle (ps : ParserState) : ParserState := { tag := .idle, buf := ps.buf.clear }

/-- The parser's tag after an error event: `Error` for `FrameTooLarge` alone, else `Accumulating` (rule R211). -/
def tagAfterError : Error → Tag
  | .frameTooLarge => .error
  | .dataTooLong | .invalidEscape | .missingDelimiter | .frameTooShort | .lengthMismatch | .checksumMismatch =>
    .accumulating

/-- Delivery of an error by the parser: one `Err` event, the buffer cleared, the tag of rule R211, nothing saved
(rule R202). -/
def deliverError (e : Error) (ps : ParserState) : ParserState × List Event :=
  ({ tag := tagAfterError e, buf := ps.buf.clear }, [.err e])

/-! ### State -/

/-- Deliver an operation's result to the caller. -/
def State.respond (r : Response) (s : State) : State := { s with response := some r }

/-- Write ParserState. -/
def State.setParser (ps : ParserState) (s : State) : State := { s with ps := ps }

/-- The hardware reset of rule R230: ParserState as PRESET leaves it, no event, and nothing an earlier operation delivered
is withdrawn. -/
def hardwareReset (s : State) : State := s.setParser s.ps.toIdle

/-- Take the next input, if the outside world has presented one (rules R50, R52, R232). -/
def State.takeInput (s : State) : Option (Input × State) :=
  match s.inputs with
  | [] => none
  | input :: rest => some (input, { s with inputs := rest })

/-- Present a request ahead of every other input. -/
def State.present (r : Request) (s : State) : State := { s with inputs := .request r :: s.inputs }

end Sys2Proof.Machine
end

