-- ==== Sys2Proof/Machine/Operands.lean ====
section
/-! DEFINITION. The operand forms: a frame's fields laid out as the ADU's header on encode, and read back from an
unstuffed body on decode (rules R62, R63, R68). Nothing is sign-extended, scaled or shifted. -/

namespace Sys2Proof.Machine

/-- The bytes the checksum covers: address, command, length, data (rules R62, R64, R123). The length byte counts the
unstuffed data bytes and holds them exactly when there are at most 255 (rule R63). -/
def aduHeader (address command : Byte) (data : List Byte) : List Byte :=
  address :: command :: BitVec.ofNat 8 data.length :: data

/-- The fields of an unstuffed body: the three header bytes and what follows them, data and checksum together. -/
structure AduFields where
  address : Byte
  command : Byte
  length : Byte
  rest : List Byte
  deriving DecidableEq, Repr

/-- Read the fields of a body (rule R68); none when it has no length byte. -/
def aduFields : List Byte → Option AduFields
  | address :: command :: length :: rest => some ⟨address, command, length, rest⟩
  | [_, _] | [_] | [] => none

/-- `data = u[3 .. 3+L]` (rule R68). -/
def aduData (f : AduFields) : List Byte := f.rest.take f.length.toNat

end Sys2Proof.Machine
end

