-- ==== Sys2Proof/Machine/ByteStuffer.lean ====
section
/-! DEFINITION. The ByteStuffer unit: STUFF and DESTUFF (rules R100 to R112). It holds no state (rule R29). -/

namespace Sys2Proof.Machine

/-- The escape of a byte, in the arithmetic form of rule R112. -/
def escapeByte (b : Byte) : Byte := b ^^^ Config.escXor

/-- What STUFF emits for one input byte (rules R101, R102). -/
def stuffByte (b : Byte) : List Byte :=
  if b ∈ Config.reserved then [Config.esc, escapeByte b] else [b]

/-- STUFF, by the recursion rule R102 gives. -/
def stuff : List Byte → List Byte
  | [] => []
  | b :: rest => stuffByte b ++ stuff rest

/-- DESTUFF (rule R106): the byte after an escape byte is always the second half of the pair and is never itself examined
as a prefix; the two causes of `InvalidEscape` are those of rule R107; every other byte is copied (rule R108). -/
def destuff : List Byte → Result (List Byte)
  | [] => .ok []
  | [b] => if b = Config.esc then .err .invalidEscape else .ok [b]
  | b :: f :: rest =>
    if b = Config.esc then
      if escapeByte f ∈ Config.reserved then (destuff rest).map (escapeByte f :: ·) else .err .invalidEscape
    else (destuff (f :: rest)).map (b :: ·)

/-- STUFF (rule R102): no state read or written, no error. -/
def execStuff (input : List Byte) (s : State) : Host.Outcome State Fault Refusal :=
  .next (s.respond (.bytes (.ok (stuff input))))

/-- DESTUFF (rules R106, R111): on failure the error is delivered and nothing else. -/
def execDestuff (input : List Byte) (s : State) : Host.Outcome State Fault Refusal :=
  .next (s.respond (.bytes (destuff input)))

end Sys2Proof.Machine
end

