-- ==== Sys2Proof/Machine/EscapePairs.lean ====
section
/-! DEFINITION. The escape pairs of format ESC16: the two-byte symbols of DESTUFF's input (rules R75, R76, R107). -/

namespace Sys2Proof.Machine

/-- Present an escape pair at DESTUFF's input (rules R75, R107). -/
def presentPair (second : Byte) (s : State) : Host.Outcome State Fault Refusal :=
  .next (s.respond (.bytes (destuff [Config.esc, second])))

/-- ESC.DELIM: `0x7D 0x5E` stands for `0x7E` (rule R75). -/
def execEscDelim (s : State) : Host.Outcome State Fault Refusal := presentPair 0x5E#8 s

/-- ESC.ESC: `0x7D 0x5D` stands for `0x7D` (rule R75). -/
def execEscEsc (s : State) : Host.Outcome State Fault Refusal := presentPair 0x5D#8 s

/-- ESC.XON: `0x7D 0x31` stands for `0x11` (rule R75). -/
def execEscXon (s : State) : Host.Outcome State Fault Refusal := presentPair 0x31#8 s

/-- ESC.XOFF: `0x7D 0x33` stands for `0x13` (rule R75). -/
def execEscXoff (s : State) : Host.Outcome State Fault Refusal := presentPair 0x33#8 s

/-- ESC.BAD: any other pair makes DESTUFF answer `Err(InvalidEscape)` (rules R78 (a), R107). -/
def execEscBad (second : Byte) (s : State) : Host.Outcome State Fault Refusal := presentPair second s

end Sys2Proof.Machine
end

