-- ==== Sys2Proof/Machine/ChecksumEngine.lean ====
section
/-! DEFINITION. The ChecksumEngine unit: CSUM.COMPUTE and CSUM.VERIFY (rules R120 to R130). It holds no state and works on
unstuffed bytes only. -/

namespace Sys2Proof.Machine

/-- `sum(s)`: the sum of the bytes as a natural number, with no wrap (rule R13). -/
def byteSum (bytes : List Byte) : Nat := (bytes.map BitVec.toNat).sum

/-- CSUM.COMPUTE: `0xFF - (sum mod 256)` (rule R121). The subtraction never borrows (rule R122). -/
def csumCompute (fields : List Byte) : Byte := BitVec.ofNat 8 (0xFF - byteSum fields % 256)

/-- CSUM.VERIFY: recompute over all but the last byte and compare (rule R126); false on the empty operand (rule R127). -/
def csumVerify (fieldsCk : List Byte) : Bool :=
  match fieldsCk.getLast? with
  | none => false
  | some checksum => csumCompute fieldsCk.dropLast == checksum

/-- CSUM.COMPUTE (rule R121). -/
def execCsumCompute (fields : List Byte) (s : State) : Host.Outcome State Fault Refusal :=
  .next (s.respond (.byte (.ok (csumCompute fields))))

/-- CSUM.VERIFY (rule R126): a mismatch is the value false, not an error. -/
def execCsumVerify (fieldsCk : List Byte) (s : State) : Host.Outcome State Fault Refusal :=
  .next (s.respond (.bool (.ok (csumVerify fieldsCk))))

end Sys2Proof.Machine
end

