-- ==== Sys2Proof/Machine/FrameCodec.lean ====
section
/-! DEFINITION. The FrameCodec unit: ENCODE and DECODE with its stage DECODE_BODY (rules R140 to R158). It holds no state. -/

namespace Sys2Proof.Machine

/-- The ADU of a frame: the header and its checksum (rules R62, R64). -/
def adu (address command : Byte) (data : List Byte) : List Byte :=
  aduHeader address command data ++ [csumCompute (aduHeader address command data)]

/-- The derived field `checksum` of a Frame (rule R32). -/
def Frame.checksum (f : Frame) : Byte := csumCompute (aduHeader f.address f.command f.data)

/-- ENCODE (rules R141, R142). -/
def frameEncode (address command : Byte) (data : List Byte) : Result (List Byte) :=
  if data.length > Config.maxData then .err .dataTooLong
  else .ok ([Config.delim] ++ stuff (adu address command data) ++ [Config.delim])

/-- Stages 4 to 6 of DECODE, on the fields of a body of at least 4 bytes (rules R150, R152, R153). -/
def decodeFields (u : List Byte) (f : AduFields) : Result Frame :=
  if f.rest.length ≠ f.length.toNat + 1 then .err .lengthMismatch
  else if csumVerify u = false then .err .checksumMismatch
  else .ok { address := f.address, command := f.command, data := aduData f }

/-- Stages 3 to 6 of DECODE, on the unstuffed body (rules R149 to R153). -/
def decodeAdu (u : List Byte) : Result Frame :=
  if u.length < Config.minAdu then .err .frameTooShort
  else
    match aduFields u with
    | none => .err .frameTooShort
    | some f => decodeFields u f

/-- DECODE_BODY: stages 2 to 6, on the interior (rules R147, R148). -/
def decodeBody (body : List Byte) : Result Frame := (destuff body).andThen decodeAdu

/-- Stage 1 of DECODE: the interior of an input that starts and ends with two distinct delimiters and holds no other
(rule R146). -/
def frameInterior (wire : List Byte) : Result (List Byte) :=
  if wire.length < 2 ∨ wire.head? ≠ some Config.delim ∨ wire.getLast? ≠ some Config.delim then .err .missingDelimiter
  else
    let body := (wire.drop 1).dropLast
    if Config.delim ∈ body then .err .missingDelimiter else .ok body

/-- DECODE (rules R145, R205): the checks in the order the document gives them, the first that fails deciding the error. -/
def frameDecode (wire : List Byte) : Result Frame := (frameInterior wire).andThen decodeBody

/-- ENCODE (rule R141): no state read or written. -/
def execEncode (address command : Byte) (data : List Byte) (s : State) : Host.Outcome State Fault Refusal :=
  .next (s.respond (.bytes (frameEncode address command data)))

/-- DECODE (rule R145): no state read or written. -/
def execDecode (wireBytes : List Byte) (s : State) : Host.Outcome State Fault Refusal :=
  .next (s.respond (.frame (frameDecode wireBytes)))

end Sys2Proof.Machine
end

