-- ==== Sys2Proof/Machine/StreamParser.lean ====
section
/-! DEFINITION. The StreamParser unit: FEED with its per-byte step FEED1, and PRESET (rules R170 to R198). -/

namespace Sys2Proof.Machine

/-- A delimiter closes a non-empty span (rule R176): the span is read, handed to DECODE between two delimiters, the result
emitted, and the buffer cleared; the same delimiter starts the next span. -/
def closeSpan (ps : ParserState) : ParserState × List Event :=
  match frameDecode ([Config.delim] ++ ps.buf.span ++ [Config.delim]) with
  | .ok frame => (ps.startSpan, [.ok frame])
  | .err e => deliverError e ps

/-- FEED1, the step for one input byte (rules R171 to R188): selected by the tag and by whether the byte is the delimiter;
no other property of the byte is examined. -/
def feed1 (maxBuf : Nat) (ps : ParserState) (b : Byte) : ParserState × List Event :=
  match ps.tag with
  | .idle => if b = Config.delim then (ps.startSpan, []) else (ps, [])
  | .accumulating =>
    if b = Config.delim then
      if 0 < ps.buf.length then closeSpan ps else ({ ps with tag := .accumulating }, [])
    else
      if ps.buf.length < maxBuf then ({ ps with buf := ps.buf.store b }, []) else deliverError .frameTooLarge ps
  | .error => if b = Config.delim then (ps.startSpan, []) else (ps, [])

/-- FEED, the left fold of FEED1 with the events concatenated (rule R170). -/
def feedBytes (maxBuf : Nat) : ParserState → List Byte → ParserState × List Event
  | ps, [] => (ps, [])
  | ps, b :: rest =>
    let first := feed1 maxBuf ps b
    let others := feedBytes maxBuf first.1 rest
    (others.1, first.2 ++ others.2)

/-- FEED (rule R170): it never fails; errors appear only as events. -/
def execFeed (bytes : List Byte) (s : State) : Host.Outcome State Fault Refusal :=
  let fed := feedBytes s.maxBuf s.ps bytes
  .next ((s.setParser fed.1).respond (.events fed.2))

/-- PRESET (rule R190): a partial frame is dropped without an event. -/
def execPreset (s : State) : Host.Outcome State Fault Refusal :=
  .next ((s.setParser s.ps.toIdle).respond .done)

end Sys2Proof.Machine
end

