-- ==== Sys2Proof/Machine/WireSymbols.lean ====
section
/-! DEFINITION. The wire symbols of format SYM8: what each unit does with each class of byte (rule R74). At the
StreamParser a symbol is the input byte of FEED1; at STUFF's or DESTUFF's input it is the whole operand (log entry 7). -/

namespace Sys2Proof.Machine

/-- Present one wire byte to a unit (rule R74). -/
def presentSymbol (port : Port) (b : Byte) (s : State) : Host.Outcome State Fault Refusal :=
  match port with
  | .parser =>
    let fed := feed1 s.maxBuf s.ps b
    .next ((s.setParser fed.1).respond (.events fed.2))
  | .stuffer => .next (s.respond (.bytes (.ok (stuffByte b))))
  | .destuffer => .next (s.respond (.bytes (destuff [b])))

/-- DELIM (rules R74, R174, R176, R178, R186, R78 (d)). -/
def execDelim (port : Port) (s : State) : Host.Outcome State Fault Refusal := presentSymbol port Config.delim s

/-- ESC (rules R74, R75, R78 (b)): an ordinary byte to the parser; alone at DESTUFF's input it is a dangling escape. -/
def execEsc (port : Port) (s : State) : Host.Outcome State Fault Refusal := presentSymbol port Config.esc s

/-- XON (rules R74, R78 (c)). -/
def execXon (port : Port) (s : State) : Host.Outcome State Fault Refusal := presentSymbol port Config.xon s

/-- XOFF (rules R74, R78 (c)). -/
def execXoff (port : Port) (s : State) : Host.Outcome State Fault Refusal := presentSymbol port Config.xoff s

/-- LIT (rule R74). -/
def execLit (port : Port) (byte : Byte) (s : State) : Host.Outcome State Fault Refusal := presentSymbol port byte s

end Sys2Proof.Machine
end

