-- ==== Sys2Proof/Machine/Dispatch.lean ====
section
/-! DEFINITION. One arm per instruction. -/

namespace Sys2Proof.Machine

def exec (i : Instr) (s : State) : Host.Outcome State Fault Refusal :=
  match i with
  -- format OP (rule R72)
  | .stuff input => Sys2Proof.Machine.execStuff input s
  | .destuff input => Sys2Proof.Machine.execDestuff input s
  | .csumCompute fields => Sys2Proof.Machine.execCsumCompute fields s
  | .csumVerify fieldsCk => Sys2Proof.Machine.execCsumVerify fieldsCk s
  | .encode address command data => Sys2Proof.Machine.execEncode address command data s
  | .decode wireBytes => Sys2Proof.Machine.execDecode wireBytes s
  | .feed bytes => Sys2Proof.Machine.execFeed bytes s
  | .preset => Sys2Proof.Machine.execPreset s
  -- format SYM8 (rule R74)
  | .delim port => Sys2Proof.Machine.execDelim port s
  | .esc port => Sys2Proof.Machine.execEsc port s
  | .xon port => Sys2Proof.Machine.execXon port s
  | .xoff port => Sys2Proof.Machine.execXoff port s
  | .lit port byte => Sys2Proof.Machine.execLit port byte s
  -- format ESC16 (rules R75, R107)
  | .escDelim => Sys2Proof.Machine.execEscDelim s
  | .escEsc => Sys2Proof.Machine.execEscEsc s
  | .escXon => Sys2Proof.Machine.execEscXon s
  | .escXoff => Sys2Proof.Machine.execEscXoff s
  | .escBad second => Sys2Proof.Machine.execEscBad second s

end Sys2Proof.Machine
end

