-- ==== Sys2Proof/Machine/Step.lean ====
section
/-! DEFINITION. One step: the next thing the outside world presents, whole (rule R11). There is no program counter and
nothing is fetched (rule R27); the input queue plays that part (log entry 1). -/

namespace Sys2Proof.Machine

/-- One step. With nothing presented the block does nothing (rules R207, R232); a reset takes effect between operations
(rules R230, R232); a request is decoded and performed. -/
def step (s : State) : Host.Outcome State Fault Refusal :=
  match s.takeInput with
  | none => .next s
  | some (.reset, s') => .next (hardwareReset s')
  | some (.request r, s') =>
    match decode r with
    | .ok i => exec i s'
    | .error e => .refused (.undecodable e)

/-- The state with the instruction of a table word presented ahead of every other input, so that the next step performs
exactly it; unchanged for a word that belongs to no format. -/
def State.withFetchWord (s : State) (nbits w : Nat) : State :=
  match tableRequest nbits w with
  | none => s
  | some r => s.present r

end Sys2Proof.Machine
end

