-- ==== Sys2Proof/Safety.lean ====
section
/-! DEFINITION. What counts as a safe state and a safe run, in the terms the statements use, and the spec's words read a
second time, apart from the meanings: the escape map, the symbol code, the checksum formula, the ADU. -/

namespace Sys2Proof.Machine

/-- The invariants of ParserState (rule R23 (a) to (d)); the last two are `Memory.wf`. -/
abbrev ParserState.Inv (maxBuf : Nat) (ps : ParserState) : Prop :=
  (ps.tag = .idle → ps.buf = []) ∧ (ps.tag = .error → ps.buf = []) ∧ ps.buf.wf maxBuf = true

/-- The errors DECODE can deliver (rule R203). -/
abbrev decodeErrors : List Error :=
  [.missingDelimiter, .invalidEscape, .frameTooShort, .lengthMismatch, .checksumMismatch]

/-- The errors an event of FEED can hold (rule R203). -/
abbrev feedErrors : List Error :=
  [.invalidEscape, .frameTooShort, .lengthMismatch, .checksumMismatch, .frameTooLarge]

/-- An event is a valid Frame (rule R32) or an error FEED can deliver (rule R203). -/
def eventValid : Event → Bool
  | .ok frame => frame.data.length ≤ Config.maxData
  | .err e => e ∈ feedErrors

/-- A delivered result is one its operation can deliver (rules R34, R73, R203). -/
def responseValid : Response → Bool
  | .bytes (.ok _) => true
  | .bytes (.err e) => e ∈ [Error.invalidEscape, Error.dataTooLong]
  | .byte (.ok _) => true
  | .byte (.err _) => false
  | .bool (.ok _) => true
  | .bool (.err _) => false
  | .frame (.ok frame) => frame.data.length ≤ Config.maxData
  | .frame (.err e) => e ∈ decodeErrors
  | .events events => events.all eventValid
  | .done => true

/-- A safe state: ParserState meets rule R23, and what was delivered is a result the spec allows. -/
abbrev State.Inv (s : State) : Prop := s.ps.Inv s.maxBuf ∧ s.response.all responseValid = true

/-- A safe run: every step of it, however many, ends in a safe state. -/
def SafeRun (s : State) : Prop := ∀ k, ∃ t, Sys2Proof.core.run k s = .next t ∧ t.Inv

end Sys2Proof.Machine

namespace Sys2Proof.Reference

/-- What stands on the wire for one unstuffed byte, by the table of rule R75. -/
def escapeOf (b : Byte) : List Byte :=
  if b = 0x7E#8 then [0x7D#8, 0x5E#8]
  else if b = 0x7D#8 then [0x7D#8, 0x5D#8]
  else if b = 0x11#8 then [0x7D#8, 0x31#8]
  else if b = 0x13#8 then [0x7D#8, 0x33#8]
  else [b]

/-- `Unstuffs x out`: read left to right from a symbol boundary, `x` is a sequence of whole symbols (rule R76), and `out`
is what they stand for: a byte other than `0x7D` for itself, a valid pair for its original byte (rules R75, R106, R108). -/
inductive Unstuffs : List Byte → List Byte → Prop where
  | nil : Unstuffs [] []
  | plain {b : Byte} {x out : List Byte} : b ≠ 0x7D#8 → Unstuffs x out → Unstuffs (b :: x) (b :: out)
  | pair {r f : Byte} {x out : List Byte} :
      (r, f) ∈ [(0x7E#8, 0x5E#8), (0x7D#8, 0x5D#8), (0x11#8, 0x31#8), (0x13#8, 0x33#8)] →
      Unstuffs x out → Unstuffs (0x7D#8 :: f :: x) (r :: out)

/-- The sum of the bytes as a natural number (rule R13). -/
def sumOf (bytes : List Byte) : Nat := bytes.foldr (fun b total => b.toNat + total) 0

/-- The checksum of some bytes, `0xFF - (sum mod 256)` (rule R121). -/
def checksumOf (bytes : List Byte) : Byte := BitVec.ofNat 8 (255 - sumOf bytes % 256)

/-- The covered part of the ADU, `[address, command, length] ++ data` (rules R62, R123). -/
def headerOf (address command : Byte) (data : List Byte) : List Byte :=
  [address, command, BitVec.ofNat 8 data.length] ++ data

/-- The ADU (rule R62): the covered part and its checksum. -/
def aduOf (address command : Byte) (data : List Byte) : List Byte :=
  headerOf address command data ++ [checksumOf (headerOf address command data)]

/-- The bytes on the wire around a body: the two delimiters (rules R33, R65). -/
def wireOf (body : List Byte) : List Byte := [0x7E#8] ++ body ++ [0x7E#8]

end Sys2Proof.Reference
end

