-- ==== Sys2Proof/Certificates/Slice0/Obligations.lean ====
section
/-! DEFINITION. The statements for the provers. Each docstring names the rule of spec/ it formalises, or the sections it
rests on where the spec marks the rule as its own inference or decision. `{ s with … }` in a conclusion is the whole frame:
every component not named keeps its value (ParserState, `MAX_BUF`, what is still to be presented, the last result). -/

open Sys2Proof Sys2Proof.Machine Sys2Proof.Reference

/-! ### Presenting and decoding -/

/-- A step performs what is presented first: a request's decoded instruction, at the state without that request; a reset;
a request that decodes to nothing is refused; with nothing presented nothing changes. The queue, the refusal and the reset
as an input are the model's own (log entries 1, 5 and 8); the reset's effect is the spec's decision D15 (log entry 14). -/
def Obligations.StepPerformsTheFirstInput : Prop :=
  (∀ (s : State) (r : Request) (rest : List Input) (i : Instr),
    s.inputs = .request r :: rest → decode r = .ok i → step s = exec i { s with inputs := rest }) ∧
  (∀ (s : State) (rest : List Input),
    s.inputs = .reset :: rest → step s = .next { s with ps := { tag := .idle, buf := [] }, inputs := rest }) ∧
  (∀ (s : State) (r : Request) (rest : List Input) (e : DecodeError),
    s.inputs = .request r :: rest → decode r = .error e → step s = .refused (.undecodable e)) ∧
  (∀ s : State, s.inputs = [] → step s = .next s)

/-- Every well-formed instruction, with every operand at every value, is decoded from its own encoding, and a request that
decodes is the encoding of a well-formed instruction: no bit is dropped and no request has two meanings. The form of a
request is the model's (log entry 5). -/
def Obligations.DecodeAndEncodeAgree : Prop :=
  (∀ i : Instr, i.wellFormed = true → decode (encode i) = .ok i) ∧
  (∀ (r : Request) (i : Instr), decode r = .ok i → encode i = r ∧ i.wellFormed = true)

/-- Words written out from the tables of the operation select, the wire symbols and the escape map decode to the
instructions they stand for. That a bare 8-bit word below 8 is an operation select and not a LIT byte, that a wire byte's
unit is the StreamParser, and that the operand bits, ENCODE's address and command among them, are zero are the model's
choices (log entry 6). -/
def Obligations.TableWordsDecodeToTheirRows : Prop :=
  decodeTableWord 8 0b000 = some (.stuff []) ∧ decodeTableWord 8 0b011 = some (.csumVerify []) ∧
  decodeTableWord 8 0b100 = some (.encode 0x00#8 0x00#8 []) ∧ decodeTableWord 8 0b111 = some .preset ∧
  decodeTableWord 8 0b01111110 = some (.delim .parser) ∧ decodeTableWord 8 0b00010011 = some (.xoff .parser) ∧
  decodeTableWord 8 0b11111111 = some (.lit .parser 0xFF#8) ∧
  decodeTableWord 16 0b0111110101011110 = some .escDelim ∧
  decodeTableWord 16 0b0111110100110001 = some .escXon ∧
  decodeTableWord 16 0b0111110101111101 = some (.escBad 0x7D#8)

/-- Within a format a value is decoded by the row with the most mask bits among the rows it matches (encoding section 8):
the decoder names that row, and rejects a pair exactly when no row matches it. -/
def Obligations.DecoderPicksTheMostSpecificRow : Prop :=
  (∀ (select : BitVec 3) (operand : List Byte) (i : Instr), decode (.op select operand) = .ok i →
    (bestRow opRows select.toNat).map TableRow.mnemonic = some i.mnemonic) ∧
  (∀ (port : Port) (b : Byte), ∃ i, decode (.sym8 port b) = .ok i ∧
    (bestRow sym8Rows b.toNat).map TableRow.mnemonic = some i.mnemonic) ∧
  (∀ (pair : BitVec 16) (i : Instr), decode (.esc16 pair) = .ok i →
    (bestRow esc16Rows pair.toNat).map TableRow.mnemonic = some i.mnemonic) ∧
  (∀ pair : BitVec 16, decode (.esc16 pair) = .error .notAnEscapePair ↔ bestRow esc16Rows pair.toNat = none)

/-! ### The whole machine -/

/-- `ps.tag = Idle` and `ps.buf = []` in the reset state, after a hardware reset and after PRESET; `MAX_BUF` is not affected
(state section 5, rule R35). That a hardware reset has exactly the effect of PRESET, and that PRESET drops a partial frame,
is the spec's decision D15 (rule R230, log entry 14); that a hardware reset is an input beside the operations is the model's
(log entry 8). -/
def Obligations.ResetAndPresetLeaveIdleWithAnEmptyBuffer : Prop :=
  State.reset.ps = { tag := .idle, buf := [] } ∧
  (∀ s : State, (hardwareReset s).ps = { tag := .idle, buf := [] } ∧ (hardwareReset s).maxBuf = s.maxBuf) ∧
  (∀ s : State, ∃ t, exec .preset s = .next t ∧ t.ps = { tag := .idle, buf := [] } ∧ t.maxBuf = s.maxBuf)

/-- The invariants of ParserState hold at reset. -/
def Obligations.SafeStateAtReset : Prop := State.reset.Inv

/-- Every step keeps a safe state safe: only `Accumulating` holds a buffer, no delimiter is ever buffered, the buffer stays
within `MAX_BUF`, and every delivered result is one the spec allows. -/
def Obligations.EveryStepKeepsTheStateSafe : Prop :=
  ∀ s t : State, s.Inv → step s = .next t → t.Inv

/-- Rule R204: no error stops the block; from every state every instruction completes, and no step faults. -/
def Obligations.NoInstructionEverStopsTheBlock : Prop :=
  (∀ (i : Instr) (s : State), ∃ t, exec i s = .next t) ∧ (∀ (s : State) (f : Fault), step s ≠ .fault f)

/-- From a safe state, when everything presented names an instruction, a run of any length ends in a safe state. -/
def Obligations.EveryDecodableRunStaysSafe : Prop :=
  ∀ s : State, s.Inv → (∀ r, Input.request r ∈ s.inputs → ∃ i, decode r = .ok i) → SafeRun s

/-- No instruction changes `MAX_BUF` or touches what is still to be presented; a step only takes the first input away. -/
def Obligations.StepsKeepTheParameterAndTheQueue : Prop :=
  (∀ (i : Instr) (s : State), ∃ t, exec i s = .next t ∧ t.maxBuf = s.maxBuf ∧ t.inputs = s.inputs) ∧
  (∀ s t : State, step s = .next t → t.maxBuf = s.maxBuf ∧ t.inputs = s.inputs.drop 1)

/-- Rule R29: the six pure operations are functions of their operands alone. The result is the same in every state, and
nothing but the delivered result changes; STUFF never fails, ENCODE not on data of valid length. -/
def Obligations.PureOperationsDependOnOperandsAlone : Prop :=
  (∀ x : List Byte, ∃ out, ∀ s : State, exec (.stuff x) s = .next { s with response := some (.bytes (.ok out)) }) ∧
  (∀ x : List Byte, ∃ r, ∀ s : State, exec (.destuff x) s = .next { s with response := some r }) ∧
  (∀ x : List Byte, ∃ r, ∀ s : State, exec (.csumCompute x) s = .next { s with response := some r }) ∧
  (∀ x : List Byte, ∃ r, ∀ s : State, exec (.csumVerify x) s = .next { s with response := some r }) ∧
  (∀ (a c : Byte) (d : List Byte), ∃ r,
    (∀ s : State, exec (.encode a c d) s = .next { s with response := some (.bytes r) }) ∧
    (d.length ≤ 255 → ∃ w, r = .ok w)) ∧
  (∀ x : List Byte, ∃ r, ∀ s : State, exec (.decode x) s = .next { s with response := some r })

/-- Which errors each operation can deliver (exceptions section 1). FEED's clause needs the parser's invariant: in a state
that had buffered a delimiter the span would fail DECODE's first check. -/
def Obligations.EachOperationDeliversOnlyItsOwnErrors : Prop :=
  (∀ (x : List Byte) (s : State), ∃ r, exec (.destuff x) s = .next { s with response := some (.bytes r) } ∧
    ∀ e, r = .err e → e = .invalidEscape) ∧
  (∀ (a c : Byte) (d : List Byte) (s : State), ∃ r,
    exec (.encode a c d) s = .next { s with response := some (.bytes r) } ∧ ∀ e, r = .err e → e = .dataTooLong) ∧
  (∀ (w : List Byte) (s : State), ∃ r, exec (.decode w) s = .next { s with response := some (.frame r) } ∧
    ∀ e, r = .err e → e ∈ decodeErrors) ∧
  (∀ (bytes : List Byte) (s : State), s.ps.Inv s.maxBuf → ∃ ps events,
    exec (.feed bytes) s = .next { s with ps := ps, response := some (.events events) } ∧
    ∀ e, Result.err e ∈ events → e ∈ feedErrors)

/-! ### ByteStuffer -/

/-- Rule R102: STUFF, selected by `op` 0, replaces each reserved byte by its escape and copies every other byte. -/
def Obligations.StuffEscapesExactlyTheReservedBytes : Prop :=
  (∀ input : List Byte, decode (.op 0b000#3 input) = .ok (.stuff input)) ∧
  (∀ (input : List Byte) (s : State), exec (.stuff input) s =
    .next { s with response := some (.bytes (.ok (input.flatMap fun b =>
      if b = 0x7E#8 ∨ b = 0x7D#8 ∨ b = 0x11#8 ∨ b = 0x13#8 then [0x7D#8, b ^^^ 0x20#8] else [b]))) })

/-- Rule R103: the length law of STUFF, with its two bounds and when each is met. -/
def Obligations.StuffLengthCountsTheReservedBytes : Prop :=
  ∀ (x : List Byte) (s : State), ∃ out, exec (.stuff x) s = .next { s with response := some (.bytes (.ok out)) } ∧
    out.length = x.length + x.countP (fun b => b ∈ Config.reserved) ∧
    x.length ≤ out.length ∧ out.length ≤ 2 * x.length ∧
    (out.length = x.length ↔ ∀ b ∈ x, b ∉ Config.reserved) ∧
    (out.length = 2 * x.length ↔ ∀ b ∈ x, b ∈ Config.reserved)

/-- What no STUFF output holds: `0x7E`, `0x11`, `0x13`, an escape byte without a valid second byte, a trailing escape; and
DESTUFF does not fail on it (byte stuffer section 2). -/
def Obligations.StuffOutputHoldsNoBareReservedByte : Prop :=
  ∀ (x : List Byte) (s : State), ∃ out, exec (.stuff x) s = .next { s with response := some (.bytes (.ok out)) } ∧
    0x7E#8 ∉ out ∧ 0x11#8 ∉ out ∧ 0x13#8 ∉ out ∧
    (∀ j, out[j]? = some 0x7D#8 → ∃ f ∈ [0x5E#8, 0x5D#8, 0x31#8, 0x33#8], out[j + 1]? = some f) ∧
    out.getLast? ≠ some 0x7D#8 ∧
    (∃ y, exec (.destuff out) s = .next { s with response := some (.bytes (.ok y)) })

/-- Rule R105: STUFF is injective and not surjective. -/
def Obligations.StuffIsInjectiveAndNotSurjective : Prop :=
  (∀ (x y : List Byte) (s : State), x ≠ y → exec (.stuff x) s ≠ exec (.stuff y) s) ∧
  (∀ out ∈ [[0x7E#8], [0x7D#8], [0x7D#8, 0x00#8], [0x11#8]], ∀ (x : List Byte) (s : State),
    exec (.stuff x) s ≠ .next { s with response := some (.bytes (.ok out)) })

/-- Rule R106: DESTUFF, selected by `op` 1, answers what the symbols of its input stand for, and `InvalidEscape` when the
input is no sequence of whole valid symbols. -/
def Obligations.DestuffReadsTheSymbolCode : Prop :=
  (∀ input : List Byte, decode (.op 0b001#3 input) = .ok (.destuff input)) ∧
  (∀ (x out : List Byte) (s : State), Unstuffs x out →
    exec (.destuff x) s = .next { s with response := some (.bytes (.ok out)) }) ∧
  (∀ (x : List Byte) (s : State), (∀ out, ¬ Unstuffs x out) →
    exec (.destuff x) s = .next { s with response := some (.bytes (.err .invalidEscape)) })

/-- Rule R107: the two and only two causes of `InvalidEscape`, each at a symbol boundary: a dangling escape, and a second
byte outside the four. -/
def Obligations.InvalidEscapeHasExactlyTwoCauses : Prop :=
  ∀ (x : List Byte) (s : State),
    exec (.destuff x) s = .next { s with response := some (.bytes (.err .invalidEscape)) } ↔
    ∃ before out, Unstuffs before out ∧
      (x = before ++ [0x7D#8] ∨
       ∃ f rest, x = before ++ 0x7D#8 :: f :: rest ∧ f ∉ [0x5E#8, 0x5D#8, 0x31#8, 0x33#8])

/-- Raw reserved bytes other than the escape byte pass through DESTUFF unchanged, so DESTUFF is not injective. That it does
not reject them is the spec's decision D11. -/
def Obligations.DestuffPassesRawReservedBytes : Prop :=
  (∀ (x : List Byte) (s : State), 0x7D#8 ∉ x → exec (.destuff x) s = .next { s with response := some (.bytes (.ok x)) }) ∧
  (∀ s : State, exec (.destuff [0x11#8]) s = exec (.destuff [0x7D#8, 0x31#8]) s)

/-- Rule R109: DESTUFF undoes STUFF, on every byte sequence, in whatever states the two are performed. -/
def Obligations.DestuffUndoesStuff : Prop :=
  ∀ (x : List Byte) (s t : State), ∃ w, exec (.stuff x) s = .next { s with response := some (.bytes (.ok w)) } ∧
    exec (.destuff w) t = .next { t with response := some (.bytes (.ok x)) }

/-- The length law of DESTUFF: one byte less for each escape pair, and a successful scan holds one `0x7D` a pair (byte
stuffer section 3). -/
def Obligations.DestuffLengthDropsOneBytePerPair : Prop :=
  ∀ (x out : List Byte) (s : State), exec (.destuff x) s = .next { s with response := some (.bytes (.ok out)) } →
    out.length + x.count 0x7D#8 = x.length ∧ x.length ≤ 2 * out.length ∧ out.length ≤ x.length

/-! ### ChecksumEngine -/

/-- Rule R121: CSUM.COMPUTE, selected by `op` 2, answers `0xFF` less the sum modulo 256, the complement of the sum. -/
def Obligations.ChecksumComplementsTheSum : Prop :=
  (∀ fields : List Byte, decode (.op 0b010#3 fields) = .ok (.csumCompute fields)) ∧
  (∀ (fields : List Byte) (s : State), ∃ c : Byte,
    exec (.csumCompute fields) s = .next { s with response := some (.byte (.ok c)) } ∧
    c.toNat = 0xFF - sumOf fields % 256 ∧ c = ~~~(BitVec.ofNat 8 (sumOf fields)))

/-- An 8-bit accumulator that discards carries gives the same checksum, and the three forms of the final step, less from
`0xFF`, complement and exclusive or with `0xFF`, agree; neither the order of the bytes nor bytes `0x00` matter (checksum engine section 2). -/
def Obligations.ChecksumAccumulatesByteByByteInAnyOrder : Prop :=
  ∀ (fields : List Byte) (s : State), ∃ c : Byte,
    exec (.csumCompute fields) s = .next { s with response := some (.byte (.ok c)) } ∧
    c = 0xFF#8 - fields.foldl (fun acc b => acc + b) 0x00#8 ∧
    c = ~~~(fields.foldl (fun acc b => acc + b) 0x00#8) ∧
    c = fields.foldl (fun acc b => acc + b) 0x00#8 ^^^ 0xFF#8 ∧
    (∀ others, fields.Perm others →
      exec (.csumCompute others) s = .next { s with response := some (.byte (.ok c)) }) ∧
    exec (.csumCompute (fields.filter (fun b => b ≠ 0x00#8))) s = .next { s with response := some (.byte (.ok c)) }

/-- CSUM.VERIFY, selected by `op` 3, compares the last byte with the checksum of the others. The answer on the empty
operand is the spec's decision D12. -/
def Obligations.VerifyComparesTheTrailingByte : Prop :=
  (∀ fields : List Byte, decode (.op 0b011#3 fields) = .ok (.csumVerify fields)) ∧
  (∀ (fields : List Byte) (c : Byte) (s : State), exec (.csumVerify (fields ++ [c])) s =
    .next { s with response := some (.bool (.ok (decide (checksumOf fields = c)))) }) ∧
  (∀ s : State, exec (.csumVerify []) s = .next { s with response := some (.bool (.ok false)) })

/-- The equivalent test on the sum of all bytes, and single-bit sensitivity: inverting one bit of one byte of a sequence
that verifies gives one that does not (checksum engine section 3). -/
def Obligations.VerifyDetectsEverySingleBitFlip : Prop :=
  (∀ (x : List Byte) (s : State), x ≠ [] → exec (.csumVerify x) s =
    .next { s with response := some (.bool (.ok (decide (sumOf x % 256 = 0xFF)))) }) ∧
  (∀ (before after : List Byte) (b : Byte) (k : Nat) (s : State), k < 8 →
    exec (.csumVerify (before ++ b :: after)) s = .next { s with response := some (.bool (.ok true)) } →
    exec (.csumVerify (before ++ (b ^^^ (0x01#8 <<< k)) :: after)) s =
      .next { s with response := some (.bool (.ok false)) })

/-! ### FrameCodec -/

/-- ENCODE, selected by `op` 4, builds, checksums, stuffs and wraps the frame; more than 255 data bytes give `DataTooLong`
and nothing else (frame codec section 2). That a request's first two operand bytes are the address and the command is the
model's choice (log entry 5). -/
def Obligations.EncodeBuildsTheWireFrame : Prop :=
  (∀ (a c : Byte) (d : List Byte), decode (.op 0b100#3 (a :: c :: d)) = .ok (.encode a c d)) ∧
  (∀ (a c : Byte) (d : List Byte) (s : State), d.length ≤ 255 → exec (.encode a c d) s =
    .next { s with response := some (.bytes (.ok (wireOf ((aduOf a c d).flatMap escapeOf)))) }) ∧
  (∀ (a c : Byte) (d : List Byte) (s : State), 255 < d.length → exec (.encode a c d) s =
    .next { s with response := some (.bytes (.err .dataTooLong)) })

/-- The shape and size of every WireFrame: delimiters at the ends and nowhere else, no raw XON or XOFF, 6 to 519 bytes, two
delimiters, four fields, the data and one byte for each reserved byte (encoding section 3, frame codec section 2). -/
def Obligations.EncodedFramesHaveTheStatedShape : Prop :=
  ∀ (a c : Byte) (d : List Byte) (s : State), d.length ≤ 255 → ∃ body,
    exec (.encode a c d) s = .next { s with response := some (.bytes (.ok (wireOf body))) } ∧
    0x7E#8 ∉ body ∧ 0x11#8 ∉ body ∧ 0x13#8 ∉ body ∧ 6 ≤ (wireOf body).length ∧ (wireOf body).length ≤ 519 ∧
    (wireOf body).length = d.length + 6 + (aduOf a c d).countP (fun b => b ∈ Config.reserved)

/-- DECODE, selected by `op` 5, answers `MissingDelimiter` exactly when the input is shorter than 2 bytes, does not start
or does not end with `0x7E`, or holds another. That two distinct delimiters are required and that every interior `0x7E`
counts are the spec's decisions D10 and D9. -/
def Obligations.MissingDelimiterExactlyWithoutBothDelimiters : Prop :=
  (∀ w : List Byte, decode (.op 0b101#3 w) = .ok (.decode w)) ∧
  (∀ (w : List Byte) (s : State),
    exec (.decode w) s = .next { s with response := some (.frame (.err .missingDelimiter)) } ↔
    (w.length < 2 ∨ w[0]? ≠ some 0x7E#8 ∨ w[w.length - 1]? ≠ some 0x7E#8 ∨
      ∃ i, 1 ≤ i ∧ i + 2 ≤ w.length ∧ w[i]? = some 0x7E#8))

/-- Past the delimiters and the escapes, `FrameTooShort` exactly when fewer than 4 unstuffed bytes are there; else
`LengthMismatch` exactly when the count after the length byte is not the declared length plus 1; else `ChecksumMismatch`
exactly when the whole ADU does not verify (frame codec section 3). That the stages decide in this order is the spec's
decision D18 (log entry 13). -/
def Obligations.DecodeReportsTheFirstFailingStage : Prop :=
  ∀ (body u : List Byte) (s : State), 0x7E#8 ∉ body → Unstuffs body u →
    (exec (.decode (wireOf body)) s = .next { s with response := some (.frame (.err .frameTooShort)) } ↔
      u.length < 4) ∧
    (exec (.decode (wireOf body)) s = .next { s with response := some (.frame (.err .lengthMismatch)) } ↔
      4 ≤ u.length ∧ ∃ len : Byte, u[2]? = some len ∧ u.length - 3 ≠ len.toNat + 1) ∧
    (exec (.decode (wireOf body)) s = .next { s with response := some (.frame (.err .checksumMismatch)) } ↔
      4 ≤ u.length ∧ (∃ len : Byte, u[2]? = some len ∧ u.length - 3 = len.toNat + 1) ∧
      exec (.csumVerify u) s = .next { s with response := some (.bool (.ok false)) })

/-- A body that is no sequence of whole valid symbols is `InvalidEscape`, whatever its length (frame codec section 3; that
destuffing comes before the count is decision D18). -/
def Obligations.DecodePropagatesInvalidEscape : Prop :=
  ∀ (body : List Byte) (s : State), 0x7E#8 ∉ body → (∀ u, ¬ Unstuffs body u) →
    exec (.decode (wireOf body)) s = .next { s with response := some (.frame (.err .invalidEscape)) }

/-- Rule R153: past every check DECODE delivers the fields at their places in the ADU, and the checksum byte is the Frame's
derived checksum. -/
def Obligations.DecodeDeliversTheFieldsInPlace : Prop :=
  ∀ (body u : List Byte) (a c len : Byte) (s : State), 0x7E#8 ∉ body → Unstuffs body u →
    u[0]? = some a → u[1]? = some c → u[2]? = some len → u.length = len.toNat + 4 →
    exec (.csumVerify u) s = .next { s with response := some (.bool (.ok true)) } →
    exec (.decode (wireOf body)) s =
      .next { s with response := some (.frame (.ok ⟨a, c, (u.drop 3).take len.toNat⟩)) } ∧
    u[3 + len.toNat]? = some (Frame.checksum ⟨a, c, (u.drop 3).take len.toNat⟩)

/-- DECODE succeeds on exactly the wire forms of valid frames: two delimiters around a delimiter-free body whose unstuffed
form is the ADU of the delivered frame (frame codec sections 3 and 4, conflict C8). -/
def Obligations.DecodeAcceptsExactlyTheValidFrames : Prop :=
  ∀ (w : List Byte) (f : Frame) (s : State),
    exec (.decode w) s = .next { s with response := some (.frame (.ok f)) } ↔
    (f.data.length ≤ 255 ∧ ∃ body, w = wireOf body ∧ 0x7E#8 ∉ body ∧
      Unstuffs body (aduOf f.address f.command f.data))

/-- Rule R155: DECODE of an ENCODE result is the frame it was encoded from. -/
def Obligations.DecodeUndoesEncode : Prop :=
  ∀ (a c : Byte) (d : List Byte) (s t : State), d.length ≤ 255 → ∃ w,
    exec (.encode a c d) s = .next { s with response := some (.bytes (.ok w)) } ∧
    exec (.decode w) t = .next { t with response := some (.frame (.ok ⟨a, c, d⟩)) }

/-- One flipped bit in the ADU of a valid frame, stuffed and wrapped again: `LengthMismatch` when it is in the length byte,
`ChecksumMismatch` anywhere else (frame codec section 4, conflict C4). -/
def Obligations.DecodeDetectsEverySingleBitFlip : Prop :=
  ∀ (a c b : Byte) (d before after : List Byte) (k : Nat) (s : State), d.length ≤ 255 → k < 8 →
    aduOf a c d = before ++ b :: after →
    exec (.decode (wireOf ((before ++ (b ^^^ (0x01#8 <<< k)) :: after).flatMap escapeOf))) s =
      .next { s with response := some (.frame (.err
        (if before.length = 2 then .lengthMismatch else .checksumMismatch))) }

/-! ### StreamParser. In the statements about one byte `b`, `i` is FEED of that byte or the wire symbol `b` at the parser. -/

/-- Rule R172: in `Idle` a byte other than the delimiter is dropped. -/
def Obligations.IdleDropsNoise : Prop :=
  ∀ (s : State) (b : Byte) (i : Instr), (i = .feed [b] ∨ decode (.sym8 .parser b) = .ok i) →
    s.ps.tag = .idle → b ≠ 0x7E#8 → exec i s = .next { s with response := some (.events []) }

/-- Rule R174: in `Idle` the delimiter starts a span. -/
def Obligations.DelimiterInIdleStartsASpan : Prop :=
  ∀ (s : State) (i : Instr), (i = .feed [0x7E#8] ∨ i = .delim .parser) → s.ps.tag = .idle →
    exec i s = .next { s with ps := { tag := .accumulating, buf := [] }, response := some (.events []) }

/-- In `Accumulating` the delimiter closes a non-empty span: one event, exactly what DECODE answers on the span between two
delimiters; the buffer is cleared and the parser accumulates the next span, on success and on failure alike. What the
state is after it and what DECODE is handed are the spec's decisions D6 and D8. -/
def Obligations.DelimiterClosesANonEmptySpan : Prop :=
  ∀ (s : State) (i : Instr) (r : Result Frame), (i = .feed [0x7E#8] ∨ i = .delim .parser) →
    s.ps.tag = .accumulating → s.ps.buf ≠ [] →
    exec (.decode ([0x7E#8] ++ s.ps.buf ++ [0x7E#8])) s = .next { s with response := some (.frame r) } →
    exec i s = .next { s with ps := { tag := .accumulating, buf := [] }, response := some (.events [r]) }

/-- In `Accumulating` with an empty buffer the delimiter takes over as the start delimiter, with no event: the spec's
decision D7. -/
def Obligations.DelimiterOnAnEmptySpanGivesNoEvent : Prop :=
  ∀ (s : State) (i : Instr), (i = .feed [0x7E#8] ∨ i = .delim .parser) →
    s.ps.tag = .accumulating → s.ps.buf = [] → exec i s = .next { s with response := some (.events []) }

/-- Rule R180: in `Accumulating`, below `MAX_BUF`, a byte other than the delimiter is appended as received: one new cell at
the end, every other cell as before. -/
def Obligations.OrdinaryBytesAreAppended : Prop :=
  ∀ (s : State) (b : Byte) (i : Instr), (i = .feed [b] ∨ decode (.sym8 .parser b) = .ok i) →
    s.ps.tag = .accumulating → b ≠ 0x7E#8 → s.ps.buf.length < s.maxBuf → ∃ buf : Memory,
    exec i s = .next { s with ps := { s.ps with buf := buf }, response := some (.events []) } ∧
    buf = s.ps.buf ++ [b] ∧
    ∀ index, buf.readByte index = if index = s.ps.buf.length then some b else s.ps.buf.readByte index

/-- In `Accumulating`, at `MAX_BUF`, a byte other than the delimiter overflows: one `FrameTooLarge`, the buffer and the byte
dropped, the tag `Error`. What exceeding counts and what is dropped are the spec's decisions D4 and D5. -/
def Obligations.OverflowForcesError : Prop :=
  ∀ (s : State) (b : Byte) (i : Instr), (i = .feed [b] ∨ decode (.sym8 .parser b) = .ok i) →
    s.ps.tag = .accumulating → b ≠ 0x7E#8 → s.ps.buf.length = s.maxBuf →
    exec i s = .next { s with ps := { tag := .error, buf := [] },
                              response := some (.events [.err .frameTooLarge]) }

/-- Rule R184: in `Error` a byte other than the delimiter is dropped, with no second event. -/
def Obligations.ErrorDropsBytes : Prop :=
  ∀ (s : State) (b : Byte) (i : Instr), (i = .feed [b] ∨ decode (.sym8 .parser b) = .ok i) →
    s.ps.tag = .error → b ≠ 0x7E#8 → exec i s = .next { s with response := some (.events []) }

/-- In `Error` the delimiter is handled as `Idle` handles it: it starts the next span. That this very delimiter starts it is
the spec's decision D6 (conflict C7). -/
def Obligations.DelimiterInErrorResynchronizes : Prop :=
  ∀ (s : State) (i : Instr), (i = .feed [0x7E#8] ∨ i = .delim .parser) → s.ps.tag = .error →
    exec i s = .next { s with ps := { tag := .accumulating, buf := [] }, response := some (.events []) }

/-- Rule R170: FEED, selected by `op` 6, is the left fold of the one-byte step, with the events concatenated. -/
def Obligations.FeedFoldsTheOneByteStep : Prop :=
  (∀ bytes : List Byte, decode (.op 0b110#3 bytes) = .ok (.feed bytes)) ∧
  (∀ s : State, exec (.feed []) s = .next { s with response := some (.events []) }) ∧
  (∀ (s : State) (b : Byte) (rest : List Byte), ∃ ps ps' events events',
    exec (.feed [b]) s = .next { s with ps := ps, response := some (.events events) } ∧
    exec (.feed rest) { s with ps := ps } = .next { s with ps := ps', response := some (.events events') } ∧
    exec (.feed (b :: rest)) s = .next { s with ps := ps', response := some (.events (events ++ events')) })

/-- How the stream is cut into FEEDs has no effect, on the state or on the events (memory section 3). -/
def Obligations.CuttingTheStreamChangesNothing : Prop :=
  ∀ (s : State) (x y : List Byte), ∃ ps ps' events events',
    exec (.feed x) s = .next { s with ps := ps, response := some (.events events) } ∧
    exec (.feed y) { s with ps := ps } = .next { s with ps := ps', response := some (.events events') } ∧
    exec (.feed (x ++ y)) s = .next { s with ps := ps', response := some (.events (events ++ events')) }

/-- A delimiter at the end of what is fed leaves `Accumulating` with an empty buffer, from every state (stream parser
section 3). It rests on the spec's decision D6. -/
def Obligations.EveryDelimiterLeavesAnEmptySpan : Prop :=
  ∀ (s : State) (bytes : List Byte), ∃ events, exec (.feed (bytes ++ [0x7E#8])) s =
    .next { s with ps := { tag := .accumulating, buf := [] }, response := some (.events events) }

/-- One byte gives at most one event; apart from overflows there are no more events than delimiters; a stream with no
delimiter gives at most one event (stream parser section 3). -/
def Obligations.EventsAreBoundedByDelimiters : Prop :=
  ∀ (s : State) (bytes : List Byte), ∃ ps events,
    exec (.feed bytes) s = .next { s with ps := ps, response := some (.events events) } ∧
    events.length ≤ bytes.length ∧
    (events.filter (fun r => r ≠ .err .frameTooLarge)).length ≤ bytes.count 0x7E#8 ∧
    (0x7E#8 ∉ bytes → events.length ≤ 1)

/-- A partial frame stays in the buffer: bytes that hold no delimiter and fit `MAX_BUF` are buffered, in order, without an
event, however they are fed; and with nothing presented nothing changes (stream parser section 3). -/
def Obligations.PartialFramesPersist : Prop :=
  (∀ (s : State) (bytes : List Byte), s.ps.tag = .accumulating → 0x7E#8 ∉ bytes →
    s.ps.buf.length + bytes.length ≤ s.maxBuf → exec (.feed bytes) s =
      .next { s with ps := { tag := .accumulating, buf := s.ps.buf ++ bytes }, response := some (.events []) }) ∧
  (∀ s : State, s.inputs = [] → ∀ k, Sys2Proof.core.run k s = .next s)

/-- An oversized run gives exactly one `FrameTooLarge`, however long it is (exceptions section 5; decision D5). -/
def Obligations.OversizedRunGivesOneError : Prop :=
  (∀ (s : State) (bytes : List Byte), s.ps.tag = .accumulating → 0x7E#8 ∉ bytes → s.ps.buf.length ≤ s.maxBuf →
    s.maxBuf < s.ps.buf.length + bytes.length → exec (.feed bytes) s =
      .next { s with ps := { tag := .error, buf := [] }, response := some (.events [.err .frameTooLarge]) }) ∧
  (∀ (s : State) (bytes : List Byte), s.ps.tag = .error → 0x7E#8 ∉ bytes →
    exec (.feed bytes) s = .next { s with response := some (.events []) })

/-- What one byte's error event does to the parser: the buffer is emptied, and the tag is `Error` after `FrameTooLarge` and
`Accumulating` after every other error (exceptions section 4). -/
def Obligations.ErrorEventsLeaveTheStatedParserState : Prop :=
  ∀ (s : State) (b : Byte), ∃ ps events,
    exec (.feed [b]) s = .next { s with ps := ps, response := some (.events events) } ∧
    ∀ e, Result.err e ∈ events → events = [.err e] ∧
      ps = { tag := if e = .frameTooLarge then .error else .accumulating, buf := [] }

/-- From `Idle` everything before the first delimiter is dropped without an event (hazards section 3). -/
def Obligations.IdleSkipsToTheFirstDelimiter : Prop :=
  ∀ (s : State) (noise rest : List Byte), s.ps.tag = .idle → 0x7E#8 ∉ noise →
    exec (.feed noise) s = .next { s with response := some (.events []) } ∧
    (∃ t, exec (.feed (noise ++ 0x7E#8 :: rest)) s = .next t ∧ exec (.feed (0x7E#8 :: rest)) s = .next t)

/-- PRESET, selected by `op` 7: `Idle`, an empty buffer, no event, nothing else touched. That a partial frame is dropped
silently is the spec's decision D15; that PRESET's answer is a response of its own is the model's (log entry 2). -/
def Obligations.PresetReturnsToIdle : Prop :=
  decode (.op 0b111#3 []) = .ok .preset ∧
  ∀ s : State, exec .preset s =
    .next { s with ps := { tag := .idle, buf := [] }, response := some .done }

/-- No byte fed before a PRESET can influence any event after it: two parsers with the same `MAX_BUF`, whatever they were
fed, answer alike and end alike after PRESET (memory section 6). -/
def Obligations.NothingBeforePresetIsEverSeenAfter : Prop :=
  ∀ (s t : State) (past bytes : List Byte), s.maxBuf = t.maxBuf → ∃ s' s'' t' ps events,
    exec (.feed past) s = .next s' ∧ exec .preset s' = .next s'' ∧ exec .preset t = .next t' ∧
    exec (.feed bytes) s'' = .next { s'' with ps := ps, response := some (.events events) } ∧
    exec (.feed bytes) t' = .next { t' with ps := ps, response := some (.events events) }

/-- The parser round trip: an encoded frame fed to a parser with an empty buffer gives exactly its frame; a stale span only
puts its own event before it. 517 buffered bytes are enough for every frame (stream parser section 3; decision D6). -/
def Obligations.ParserRecoversEveryEncodedFrame : Prop :=
  ∀ (a c : Byte) (d : List Byte) (s : State), d.length ≤ 255 → ∃ w,
    exec (.encode a c d) s = .next { s with response := some (.bytes (.ok w)) } ∧ w.length - 2 ≤ 517 ∧
    (w.length - 2 ≤ s.maxBuf → s.ps.buf = [] → exec (.feed w) s =
      .next { s with ps := { tag := .accumulating, buf := [] }, response := some (.events [.ok ⟨a, c, d⟩]) }) ∧
    (∀ r, w.length - 2 ≤ s.maxBuf → s.ps.tag = .accumulating → s.ps.buf ≠ [] →
      exec (.decode (wireOf s.ps.buf)) s = .next { s with response := some (.frame r) } →
      exec (.feed w) s =
        .next { s with ps := { tag := .accumulating, buf := [] }, response := some (.events [r, .ok ⟨a, c, d⟩]) })

/-- Resynchronisation: one bad body between two good frames gives the two frames and one error, in order; with a delimiter
between the bodies or two; and a middle body longer than `MAX_BUF` gives `FrameTooLarge` in the same place (stream parser
section 3; decisions D5 to D7). -/
def Obligations.ParserResynchronizesAfterABadFrame : Prop :=
  ∀ (a c a' c' : Byte) (d d' : List Byte) (s : State), d.length ≤ 255 → d'.length ≤ 255 → ∃ good good',
    exec (.encode a c d) s = .next { s with response := some (.bytes (.ok (wireOf good))) } ∧
    exec (.encode a' c' d') s = .next { s with response := some (.bytes (.ok (wireOf good'))) } ∧
    (good.length ≤ s.maxBuf → good'.length ≤ s.maxBuf → s.ps.buf = [] → ∀ bad : List Byte, bad ≠ [] → 0x7E#8 ∉ bad →
      (∀ e, bad.length ≤ s.maxBuf →
        exec (.decode (wireOf bad)) s = .next { s with response := some (.frame (.err e)) } →
        exec (.feed (wireOf good ++ wireOf bad ++ wireOf good')) s =
          .next { s with ps := { tag := .accumulating, buf := [] },
                         response := some (.events [.ok ⟨a, c, d⟩, .err e, .ok ⟨a', c', d'⟩]) } ∧
        exec (.feed ([0x7E#8] ++ good ++ [0x7E#8] ++ bad ++ [0x7E#8] ++ good' ++ [0x7E#8])) s =
          .next { s with ps := { tag := .accumulating, buf := [] },
                         response := some (.events [.ok ⟨a, c, d⟩, .err e, .ok ⟨a', c', d'⟩]) }) ∧
      (s.maxBuf < bad.length →
        exec (.feed (wireOf good ++ wireOf bad ++ wireOf good')) s =
          .next { s with ps := { tag := .accumulating, buf := [] },
                         response := some (.events [.ok ⟨a, c, d⟩, .err .frameTooLarge, .ok ⟨a', c', d'⟩]) }))

/-! ### Wire symbols and escape pairs -/

/-- A wire symbol at the StreamParser completes, and does what FEED of that one byte does (encoding section 5). That a lone
symbol can be presented is the model's reading (log entry 7). -/
def Obligations.SymbolsAtTheParserAreFeedsOfOneByte : Prop :=
  ∀ s : State,
    (∃ t, exec (.delim .parser) s = .next t ∧ exec (.feed [0x7E#8]) s = .next t) ∧
    (∃ t, exec (.esc .parser) s = .next t ∧ exec (.feed [0x7D#8]) s = .next t) ∧
    (∃ t, exec (.xon .parser) s = .next t ∧ exec (.feed [0x11#8]) s = .next t) ∧
    (∃ t, exec (.xoff .parser) s = .next t ∧ exec (.feed [0x13#8]) s = .next t) ∧
    (∀ b, ∃ t, exec (.lit .parser b) s = .next t ∧ exec (.feed [b]) s = .next t)

/-- What STUFF emits for each class of symbol: the escape pair of a reserved byte, any other byte itself (encoding section
5). That a lone symbol can be presented is the model's reading (log entry 7). -/
def Obligations.SymbolsAtTheStuffer : Prop :=
  ∀ s : State,
    exec (.delim .stuffer) s = .next { s with response := some (.bytes (.ok [0x7D#8, 0x5E#8])) } ∧
    exec (.esc .stuffer) s = .next { s with response := some (.bytes (.ok [0x7D#8, 0x5D#8])) } ∧
    exec (.xon .stuffer) s = .next { s with response := some (.bytes (.ok [0x7D#8, 0x31#8])) } ∧
    exec (.xoff .stuffer) s = .next { s with response := some (.bytes (.ok [0x7D#8, 0x33#8])) } ∧
    (∀ b, b ∉ [0x7E#8, 0x7D#8, 0x11#8, 0x13#8] →
      exec (.lit .stuffer b) s = .next { s with response := some (.bytes (.ok [b])) })

/-- What DESTUFF does with each class of symbol: every class but ESC passes through (for raw reserved bytes the spec's
decision D11), and an ESC with nothing after it is a dangling escape (encoding sections 5 and 7). That a lone symbol can be
presented is the model's reading (log entry 7). -/
def Obligations.SymbolsAtTheDestuffer : Prop :=
  ∀ s : State,
    exec (.delim .destuffer) s = .next { s with response := some (.bytes (.ok [0x7E#8])) } ∧
    exec (.esc .destuffer) s = .next { s with response := some (.bytes (.err .invalidEscape)) } ∧
    exec (.xon .destuffer) s = .next { s with response := some (.bytes (.ok [0x11#8])) } ∧
    exec (.xoff .destuffer) s = .next { s with response := some (.bytes (.ok [0x13#8])) } ∧
    (∀ b, b ∉ [0x7E#8, 0x7D#8, 0x11#8, 0x13#8] →
      exec (.lit .destuffer b) s = .next { s with response := some (.bytes (.ok [b])) })

/-- The complete escape map, with the table form and the arithmetic form equal on all four reserved values, in both
directions (encoding section 6). That a lone pair can be presented, and does what DESTUFF does with its two bytes, is the
model's reading (log entry 7). -/
def Obligations.EscapePairsFollowTheEscapeMap : Prop :=
  ∀ s : State,
    (exec .escDelim s = .next { s with response := some (.bytes (.ok [0x7E#8])) } ∧
     decode (.esc16 0x7D5E#16) = .ok .escDelim ∧ 0x7E#8 ^^^ 0x20#8 = 0x5E#8) ∧
    (exec .escEsc s = .next { s with response := some (.bytes (.ok [0x7D#8])) } ∧
     decode (.esc16 0x7D5D#16) = .ok .escEsc ∧ 0x7D#8 ^^^ 0x20#8 = 0x5D#8) ∧
    (exec .escXon s = .next { s with response := some (.bytes (.ok [0x11#8])) } ∧
     decode (.esc16 0x7D31#16) = .ok .escXon ∧ 0x11#8 ^^^ 0x20#8 = 0x31#8) ∧
    (exec .escXoff s = .next { s with response := some (.bytes (.ok [0x13#8])) } ∧
     decode (.esc16 0x7D33#16) = .ok .escXoff ∧ 0x13#8 ^^^ 0x20#8 = 0x33#8) ∧
    (∀ b ∈ [0x7E#8, 0x7D#8, 0x11#8, 0x13#8],
      exec (.stuff [b]) s = .next { s with response := some (.bytes (.ok [0x7D#8, b ^^^ 0x20#8])) }) ∧
    (∀ (b : Byte) (k : Nat), (b ^^^ 0x20#8).getLsbD k = (if k = 5 then !b.getLsbD k else b.getLsbD k))

/-- Any other second byte makes the pair illegal: DESTUFF answers `InvalidEscape` (encoding section 7 (a)). That
a lone pair can be presented is the model's reading (log entry 7). -/
def Obligations.MalformedPairsAreRejected : Prop :=
  ∀ (f : Byte) (s : State), f ∉ [0x5E#8, 0x5D#8, 0x31#8, 0x33#8] →
    decode (.esc16 (0x7D#8 ++ f)) = .ok (.escBad f) ∧
    exec (.escBad f) s = .next { s with response := some (.bytes (.err .invalidEscape)) }
end

