-- ==== Sys2Proof/Laws/State.lean ====
section
/-! SUPPORT. One lemma per field per update of the state records, all true by rfl. -/

namespace Sys2Proof.Machine

variable (s : State) (r : Response) (ps : ParserState) (q : Request)

@[simp] theorem respond_ps : (s.respond r).ps = s.ps := rfl
@[simp] theorem respond_maxBuf : (s.respond r).maxBuf = s.maxBuf := rfl
@[simp] theorem respond_inputs : (s.respond r).inputs = s.inputs := rfl
@[simp] theorem respond_response : (s.respond r).response = some r := rfl

@[simp] theorem setParser_ps : (s.setParser ps).ps = ps := rfl
@[simp] theorem setParser_maxBuf : (s.setParser ps).maxBuf = s.maxBuf := rfl
@[simp] theorem setParser_inputs : (s.setParser ps).inputs = s.inputs := rfl
@[simp] theorem setParser_response : (s.setParser ps).response = s.response := rfl

@[simp] theorem present_ps : (s.present q).ps = s.ps := rfl
@[simp] theorem present_maxBuf : (s.present q).maxBuf = s.maxBuf := rfl
@[simp] theorem present_inputs : (s.present q).inputs = .request q :: s.inputs := rfl
@[simp] theorem present_response : (s.present q).response = s.response := rfl

@[simp] theorem hardwareReset_ps : (hardwareReset s).ps = ParserState.reset := rfl
@[simp] theorem hardwareReset_maxBuf : (hardwareReset s).maxBuf = s.maxBuf := rfl
@[simp] theorem hardwareReset_inputs : (hardwareReset s).inputs = s.inputs := rfl
@[simp] theorem hardwareReset_response : (hardwareReset s).response = s.response := rfl

@[simp] theorem startSpan_tag : ps.startSpan.tag = .accumulating := rfl
@[simp] theorem startSpan_buf : ps.startSpan.buf = [] := rfl
@[simp] theorem toIdle_tag : ps.toIdle.tag = .idle := rfl
@[simp] theorem toIdle_buf : ps.toIdle.buf = [] := rfl

/-- Presenting a request and taking the next input gives the request and the state as it was. -/
@[simp] theorem takeInput_present : (s.present q).takeInput = some (.request q, s) := rfl

end Sys2Proof.Machine
end

