-- ==== Sys2Proof/Laws/Ops.lean ====
section
/-! SUPPORT. What each shared operation does: results, the buffer as a memory, the delivery of an error. -/

namespace Sys2Proof.Machine

section
variable {α β : Type}

@[simp] theorem map_ok (f : α → β) (v : α) : (Result.ok v).map f = .ok (f v) := rfl
@[simp] theorem map_err (f : α → β) (e : Error) : (Result.err e).map f = .err e := rfl
@[simp] theorem andThen_ok (f : α → Result β) (v : α) : (Result.ok v).andThen f = f v := rfl
@[simp] theorem andThen_err (f : α → Result β) (e : Error) : (Result.err e).andThen f = .err e := rfl

/-- A mapped result is `Ok` exactly when it was, and then of the mapped value. -/
theorem map_eq_ok {f : α → β} {r : Result α} {w : β} : r.map f = .ok w ↔ ∃ v, r = .ok v ∧ f v = w := by
  cases r <;> simp

/-- A mapped result has the error it had. -/
theorem map_eq_err {f : α → β} {r : Result α} {e : Error} : r.map f = .err e ↔ r = .err e := by
  cases r <;> simp

end

/-! ### The buffer (rules R14, R40 to R43) -/

/-- The append of rule R41 is the defined case of MemWrite. -/
theorem write_at_end (m : Memory) (b : Byte) : m.write m.length 1 b = some (m.store b) := by
  simp [Memory.write, Memory.store]

/-- MemWrite is defined nowhere else. -/
theorem write_eq_some {m m' : Memory} {addr n : Nat} {b : Byte} :
    m.write addr n b = some m' ↔ n = 1 ∧ addr = m.length ∧ m' = m.store b := by
  simp only [Memory.write, Memory.store]
  split <;> simp_all [eq_comm]

/-- The whole-span read of rule R42 is a defined case of MemRead. -/
theorem read_whole (m : Memory) : m.read 0 m.length = some m.span := by
  simp [Memory.read, Memory.span]

/-- MemRead answers exactly the bytes at the indexes `addr` to `addr + n - 1`. -/
theorem read_eq_some {m : Memory} {addr n : Nat} {bytes : List Byte} (h : m.read addr n = some bytes) :
    bytes.length = n ∧ ∀ k < n, bytes[k]? = m.readByte (addr + k) := by
  unfold Memory.read at h
  split at h
  · cases h
    refine ⟨by simp; omega, fun k hk => ?_⟩
    simp [Memory.readByte, hk]
  · cases h

/-- An append makes one new cell at the end and leaves every other as it was. -/
theorem readByte_store (m : Memory) (b : Byte) (index : Nat) :
    (m.store b).readByte index = if index = m.length then some b else m.readByte index := by
  unfold Memory.store Memory.readByte
  rcases Nat.lt_trichotomy index m.length with h | h | h
  · rw [List.getElem?_append_left h, if_neg (by omega)]
  · simp [h]
  · rw [if_neg (by omega), List.getElem?_eq_none (by simp; omega), List.getElem?_eq_none (by omega)]

/-- After a clear no cell is left. -/
@[simp] theorem readByte_clear (m : Memory) (index : Nat) : m.clear.readByte index = none := rfl

@[simp] theorem clear_eq_nil (m : Memory) : m.clear = [] := rfl
@[simp] theorem span_eq (m : Memory) : m.span = m := rfl
@[simp] theorem store_eq (m : Memory) (b : Byte) : m.store b = m ++ [b] := rfl

/-- Two buffers that read alike at every index are equal: the list is its own canonical form. -/
theorem memory_ext {m m' : Memory} (h : ∀ index, m.readByte index = m'.readByte index) : m = m' :=
  List.ext_getElem? h

theorem wf_iff {maxBuf : Nat} {m : Memory} :
    m.wf maxBuf = true ↔ Config.delim ∉ m ∧ m.length ≤ maxBuf := by
  simp [Memory.wf]

/-- The reset buffer has the form. -/
theorem wf_reset : State.reset.ps.buf.wf State.reset.maxBuf = true := by decide

/-- Clearing gives the form, whatever was there. -/
@[simp] theorem wf_clear (maxBuf : Nat) (m : Memory) : m.clear.wf maxBuf = true := by simp [wf_iff]

/-- An append below `MAX_BUF` of a byte other than the delimiter keeps the form. -/
theorem wf_store {maxBuf : Nat} {m : Memory} {b : Byte} (h : m.wf maxBuf = true) (hb : b ≠ Config.delim)
    (hl : m.length < maxBuf) : (m.store b).wf maxBuf = true := by
  rw [wf_iff] at *
  simp only [store_eq, List.mem_append, List.mem_singleton, List.length_append, List.length_singleton]
  exact ⟨by rintro (h' | rfl) <;> simp_all, by omega⟩

/-- Whatever MemWrite writes below `MAX_BUF` keeps the form. -/
theorem wf_write {maxBuf addr n : Nat} {m m' : Memory} {b : Byte} (h : m.wf maxBuf = true) (hb : b ≠ Config.delim)
    (hl : m.length < maxBuf) (hw : m.write addr n b = some m') : m'.wf maxBuf = true := by
  obtain ⟨-, -, rfl⟩ := write_eq_some.1 hw
  exact wf_store h hb hl

/-! ### Errors (rule R211) -/

theorem tagAfterError_eq (e : Error) : tagAfterError e = if e = .frameTooLarge then .error else .accumulating := by
  cases e <;> rfl

/-- Delivering an error clears the buffer, sets the tag and gives one event. -/
theorem deliverError_eq (e : Error) (ps : ParserState) :
    deliverError e ps =
      ({ tag := if e = .frameTooLarge then .error else .accumulating, buf := [] }, [.err e]) := by
  rw [deliverError, tagAfterError_eq]; rfl

end Sys2Proof.Machine
end

