-- ==== Sys2Proof/Laws/ByteStuffer.lean ====
section
/-! SUPPORT. The equations of STUFF and DESTUFF, which proofs cite instead of unfolding them. -/

namespace Sys2Proof.Machine

@[simp] theorem escapeByte_escapeByte (b : Byte) : escapeByte (escapeByte b) = b := by
  simp [escapeByte]

/-- Table form and arithmetic form test the same second bytes (rule R112). -/
theorem escapeByte_reserved_iff (f : Byte) : escapeByte f ∈ Config.reserved ↔ f ∈ Config.escapedBytes := by
  revert f; decide

theorem stuffByte_reserved {b : Byte} (h : b ∈ Config.reserved) : stuffByte b = [Config.esc, escapeByte b] := if_pos h
theorem stuffByte_literal {b : Byte} (h : b ∉ Config.reserved) : stuffByte b = [b] := if_neg h

@[simp] theorem stuff_nil : stuff [] = [] := rfl
@[simp] theorem stuff_cons (b : Byte) (x : List Byte) : stuff (b :: x) = stuffByte b ++ stuff x := rfl

/-- Each byte is treated independently of its neighbours (rule R102). -/
theorem stuff_append (x y : List Byte) : stuff (x ++ y) = stuff x ++ stuff y := by
  induction x with
  | nil => rfl
  | cons b x ih => simp [ih]

@[simp] theorem destuff_nil : destuff [] = .ok [] := rfl

/-- A byte other than the escape byte is copied (rule R108). -/
theorem destuff_plain {b : Byte} (h : b ≠ Config.esc) (x : List Byte) :
    destuff (b :: x) = (destuff x).map (b :: ·) := by
  cases x with
  | nil => simp [destuff, h]
  | cons f x => simp [destuff, h]

/-- A valid pair gives its original byte (rule R75). -/
theorem destuff_pair {f : Byte} (h : f ∈ Config.escapedBytes) (x : List Byte) :
    destuff (Config.esc :: f :: x) = (destuff x).map (escapeByte f :: ·) := by
  simp only [destuff, if_true]
  exact if_pos ((escapeByte_reserved_iff f).2 h)

/-- A malformed pair ends the scan (rule R107). -/
theorem destuff_malformed {f : Byte} (h : f ∉ Config.escapedBytes) (x : List Byte) :
    destuff (Config.esc :: f :: x) = .err .invalidEscape := by
  simp only [destuff, if_true]
  exact if_neg (fun h' => h ((escapeByte_reserved_iff f).1 h'))

/-- A dangling escape ends the scan (rule R107). -/
@[simp] theorem destuff_dangling : destuff [Config.esc] = .err .invalidEscape := rfl

/-- DESTUFF has one error (rule R203). -/
theorem destuff_err {x : List Byte} {e : Error} (h : destuff x = .err e) : e = .invalidEscape := by
  induction x using destuff.induct with
  | case1 => cases h
  | case2 => cases h; rfl
  | case3 b hb => rw [destuff, if_neg hb] at h; cases h
  | case4 f rest hf ih => rw [destuff, if_pos rfl, if_pos hf] at h; exact ih (map_eq_err.1 h)
  | case5 f rest hf => rw [destuff, if_pos rfl, if_neg hf] at h; cases h; rfl
  | case6 b f rest hb ih => rw [destuff, if_neg hb] at h; exact ih (map_eq_err.1 h)

end Sys2Proof.Machine
end

