-- ==== Sys2Proof/Laws/ChecksumEngine.lean ====
section
/-! SUPPORT. The equations of the checksum, which proofs cite instead of unfolding it. -/

namespace Sys2Proof.Machine

@[simp] theorem byteSum_nil : byteSum [] = 0 := rfl
@[simp] theorem byteSum_cons (b : Byte) (x : List Byte) : byteSum (b :: x) = b.toNat + byteSum x := rfl

@[simp] theorem byteSum_append (x y : List Byte) : byteSum (x ++ y) = byteSum x + byteSum y := by
  simp [byteSum]

/-- The checksum as a number; the subtraction never borrows (rules R121, R122). -/
theorem csumCompute_toNat (x : List Byte) : (csumCompute x).toNat = 255 - byteSum x % 256 := by
  simp only [csumCompute, BitVec.toNat_ofNat]
  omega

@[simp] theorem csumVerify_nil : csumVerify [] = false := rfl

/-- CSUM.VERIFY compares the last byte with the checksum of the others (rule R126). -/
theorem csumVerify_concat (x : List Byte) (c : Byte) : csumVerify (x ++ [c]) = (csumCompute x == c) := by
  simp [csumVerify]

end Sys2Proof.Machine
end

