-- ==== Sys2Proof/Laws/Decode.lean ====
section
/-! SUPPORT. A pair word and its two bytes, and what the decoder makes of each format. -/

namespace Sys2Proof

/-- A 16-bit word is its two bytes, the first in bits 15..8. -/
theorem pair_eq_append (pair : BitVec 16) : pair = (pair.extractLsb' 8 8 ++ pair.extractLsb' 0 8 : BitVec 16) := by
  apply BitVec.eq_of_getLsbD_eq
  intro i hi
  rw [BitVec.getLsbD_append]
  by_cases h : i < 8
  · simp [h]
  · have hlow : i - 8 < 8 := by omega
    have hsum : 8 + (i - 8) = i := by omega
    simp [h, hlow, hsum]

/-- The pair a second byte names after an escape byte (rule R75). -/
theorem decode_pairWord (f : Byte) :
    decode (.esc16 (pairWord f)) = .ok
      (if f = 0x5E#8 then .escDelim
       else if f = 0x5D#8 then .escEsc
       else if f = 0x31#8 then .escXon
       else if f = 0x33#8 then .escXoff
       else .escBad f) := by
  revert f; decide +kernel

/-- A pair decodes exactly when its first byte is the escape byte, and then it is the pair word of its second byte. -/
theorem decode_esc16_cases (pair : BitVec 16) :
    (pair = pairWord (pair.extractLsb' 0 8)) ∨ decode (.esc16 pair) = .error .notAnEscapePair := by
  by_cases h : pair.extractLsb' 8 8 = Config.esc
  · left
    have hsplit := pair_eq_append pair
    rw [h] at hsplit
    exact hsplit
  · exact .inr (if_neg h)

/-- Every wire byte decodes (rule R74). -/
theorem decode_sym8 (port : Port) (b : Byte) : decode (.sym8 port b) = .ok (decodeSym8 port b) := rfl

end Sys2Proof
end

