-- ==== Sys2Proof/Machine/Flags.lean ====
section
/-! DEFINITION. The block has no flags and no condition codes, and no operation sets a status bit (rule R25). What stands
here are the numbers an implementation would put on wires for the tag and for an error (rules R21, R201); no rule depends
on them and no meaning uses them. -/

namespace Sys2Proof.Machine

/-- The spec's own 2-bit numbering of the tag; 3 is never produced (rule R21). -/
def tagCode : Tag → BitVec 2
  | .idle => 0#2
  | .accumulating => 1#2
  | .error => 2#2

/-- The spec's own 4-bit error codes, 0 for no error; 8 to 15 are never produced (rule R201). -/
def errorCode : Error → BitVec 4
  | .dataTooLong => 1#4
  | .invalidEscape => 2#4
  | .missingDelimiter => 3#4
  | .frameTooShort => 4#4
  | .lengthMismatch => 5#4
  | .checksumMismatch => 6#4
  | .frameTooLarge => 7#4

/-- The code of a result: 0 when it is `Ok` (rule R201). -/
def resultCode {α : Type} : Result α → BitVec 4
  | .ok _ => 0#4
  | .err e => errorCode e

end Sys2Proof.Machine
end

