-- ==== Sys2Proof/Laws/Flags.lean ====
section
/-! SUPPORT. The code tables of rules R21 and R201. -/

namespace Sys2Proof.Machine

theorem tagCode_injective {t u : Tag} (h : tagCode t = tagCode u) : t = u := by
  cases t <;> cases u <;> first | rfl | (revert h; decide)

theorem tagCode_ne_three (t : Tag) : tagCode t ≠ 3#2 := by
  cases t <;> decide

theorem errorCode_injective {e f : Error} (h : errorCode e = errorCode f) : e = f := by
  cases e <;> cases f <;> first | rfl | (revert h; decide)

/-- 0 is for no error, and 8 to 15 are never produced. -/
theorem errorCode_range (e : Error) : errorCode e ≠ 0#4 ∧ errorCode e < 8#4 := by
  cases e <;> decide

theorem resultCode_zero_iff {α : Type} (r : Result α) : resultCode r = 0#4 ↔ ∃ v, r = .ok v := by
  cases r with
  | ok v => simp [resultCode]
  | err e => simp [resultCode, (errorCode_range e).1]

end Sys2Proof.Machine
end

