-- ==== Sys2Proof/Laws/FrameCodec.lean ====
section
/-! SUPPORT. What each stage of ENCODE and DECODE does. -/

namespace Sys2Proof.Machine

theorem frameEncode_long {a c : Byte} {d : List Byte} (h : 255 < d.length) :
    frameEncode a c d = .err .dataTooLong := if_pos h

theorem frameEncode_short {a c : Byte} {d : List Byte} (h : d.length ≤ 255) :
    frameEncode a c d = .ok ([Config.delim] ++ stuff (adu a c d) ++ [Config.delim]) := if_neg (by simpa using h)

/-- Stage 1 on a body between two delimiters (rule R146). -/
theorem frameInterior_wrapped (body : List Byte) :
    frameInterior ([Config.delim] ++ body ++ [Config.delim]) =
      if Config.delim ∈ body then .err .missingDelimiter else .ok body := by
  have last : ([Config.delim] ++ body ++ [Config.delim]).getLast? = some Config.delim := List.getLast?_concat
  rw [frameInterior, last]
  simp

/-- Between two delimiters DECODE is DECODE_BODY (rule R148). -/
theorem frameDecode_wrapped {body : List Byte} (h : Config.delim ∉ body) :
    frameDecode ([Config.delim] ++ body ++ [Config.delim]) = decodeBody body := by
  rw [frameDecode, frameInterior_wrapped, if_neg h]; rfl

/-- Stage 1 answers nothing but `MissingDelimiter` or the interior. -/
theorem frameInterior_err {w : List Byte} {e : Error} (h : frameInterior w = .err e) : e = .missingDelimiter := by
  unfold frameInterior at h
  dsimp only at h
  split at h
  · cases h; rfl
  · split at h <;> cases h; rfl

/-- Stages 3 to 6 on a body of at least 3 bytes, in the fields of rule R68. -/
theorem decodeAdu_cons (a c len : Byte) (rest : List Byte) :
    decodeAdu (a :: c :: len :: rest) =
      if rest = [] then .err .frameTooShort
      else decodeFields (a :: c :: len :: rest) ⟨a, c, len, rest⟩ := by
  cases rest with
  | nil => rfl
  | cons b rest => simp [decodeAdu, aduFields, Config.minAdu]

/-- Stage 3: fewer than 4 bytes (rule R149). -/
theorem decodeAdu_short {u : List Byte} (h : u.length < 4) : decodeAdu u = .err .frameTooShort := if_pos h

/-- Everything stages 3 to 6 can do, in the order of their checks (rules R149, R150, R152, R153). -/
theorem decodeAdu_cases (u : List Byte) :
    (u.length < 4 ∧ decodeAdu u = .err .frameTooShort) ∨
    (∃ a c len rest, u = a :: c :: len :: rest ∧ rest ≠ [] ∧
      ((rest.length ≠ len.toNat + 1 ∧ decodeAdu u = .err .lengthMismatch) ∨
       (rest.length = len.toNat + 1 ∧ csumVerify u = false ∧ decodeAdu u = .err .checksumMismatch) ∨
       (rest.length = len.toNat + 1 ∧ csumVerify u = true ∧ decodeAdu u = .ok ⟨a, c, rest.take len.toNat⟩))) := by
  by_cases h : u.length < 4
  · exact .inl ⟨h, decodeAdu_short h⟩
  match u with
  | [_, _, _] | [_, _] | [_] | [] => simp at h
  | a :: c :: len :: r :: rest =>
    refine .inr ⟨a, c, len, r :: rest, rfl, by simp, ?_⟩
    rw [decodeAdu_cons, if_neg (by simp), decodeFields]
    by_cases hl : (r :: rest).length = len.toNat + 1
    · rw [if_neg (by simpa using hl)]
      cases hv : csumVerify (a :: c :: len :: r :: rest) <;> simp [hl, aduData]
    · rw [if_pos (by simpa using hl)]
      exact .inl ⟨hl, rfl⟩

/-- The errors of stages 2 to 6. -/
theorem decodeBody_err {body : List Byte} {e : Error} (h : decodeBody body = .err e) :
    e ∈ [Error.invalidEscape, .frameTooShort, .lengthMismatch, .checksumMismatch] := by
  unfold decodeBody at h
  cases hd : destuff body with
  | err e' => rw [hd] at h; cases h; simp [destuff_err hd]
  | ok u =>
    rw [hd, andThen_ok] at h
    rcases decodeAdu_cases u with ⟨-, hu⟩ | ⟨_, _, _, _, -, -, ⟨-, hu⟩ | ⟨-, -, hu⟩ | ⟨-, -, hu⟩⟩ <;>
      rw [hu] at h <;> cases h <;> simp

/-- DECODE never answers `FrameTooLarge`, the parser's own error (rule R203). -/
theorem frameDecode_ne_frameTooLarge (w : List Byte) : frameDecode w ≠ .err .frameTooLarge := by
  intro h
  unfold frameDecode at h
  cases hi : frameInterior w with
  | err e => rw [hi] at h; cases h; cases frameInterior_err hi
  | ok body => rw [hi, andThen_ok] at h; simpa using decodeBody_err h

end Sys2Proof.Machine
end

