-- ==== Sys2Proof/Laws/Operands.lean ====
section
/-! SUPPORT. The ADU's fields: their count, and that reading back what was laid out gives it (rules R62, R63, R68). -/

namespace Sys2Proof.Machine

@[simp] theorem aduHeader_length (a c : Byte) (d : List Byte) : (aduHeader a c d).length = d.length + 3 := rfl

/-- The fields of a body are its first three bytes and the rest. -/
theorem aduFields_eq_some {u : List Byte} {f : AduFields} :
    aduFields u = some f ↔ u = f.address :: f.command :: f.length :: f.rest := by
  obtain ⟨a, c, l, rest⟩ := f
  match u with
  | [] | [_] | [_, _] => simp [aduFields]
  | _ :: _ :: _ :: _ => simp [aduFields]

/-- The length byte of valid data is its length, with no wrap (rule R63). -/
theorem lengthByte_toNat {d : List Byte} (h : d.length ≤ 255) : (BitVec.ofNat 8 d.length).toNat = d.length := by
  rw [BitVec.toNat_ofNat]; omega

end Sys2Proof.Machine
end

