-- ==== Sys2Proof/Laws/PerInstr.lean ====
section
/-! SUPPORT. The family RoundTrip: a well-formed instruction is decoded from its own encoding. One lemma per constructor. -/

namespace Sys2Proof.Laws.RoundTrip

/-- The statement of the family about one instruction. -/
def Statement (i : Instr) : Prop := i.wellFormed = true → Sys2Proof.decode (Sys2Proof.encode i) = .ok i

theorem stuff (input : List Byte) : Statement (.stuff input) := fun _ => rfl
theorem destuff (input : List Byte) : Statement (.destuff input) := fun _ => rfl
theorem csumCompute (fields : List Byte) : Statement (.csumCompute fields) := fun _ => rfl
theorem csumVerify (fieldsCk : List Byte) : Statement (.csumVerify fieldsCk) := fun _ => rfl
theorem encode (address command : Byte) (data : List Byte) : Statement (.encode address command data) := fun _ => rfl
theorem decode (wireBytes : List Byte) : Statement (.decode wireBytes) := fun _ => rfl
theorem feed (bytes : List Byte) : Statement (.feed bytes) := fun _ => rfl
theorem preset : Statement .preset := fun _ => rfl
theorem delim (port : Port) : Statement (.delim port) := fun _ => rfl
theorem esc (port : Port) : Statement (.esc port) := fun _ => rfl
theorem xon (port : Port) : Statement (.xon port) := fun _ => rfl
theorem xoff (port : Port) : Statement (.xoff port) := fun _ => rfl

theorem lit (port : Port) (byte : Byte) : Statement (.lit port byte) := by
  intro h
  simp only [Instr.wellFormed, decide_eq_true_eq, Config.reserved, List.mem_cons, List.not_mem_nil, or_false, not_or] at h
  simp [Sys2Proof.encode, Sys2Proof.decode, decodeSym8, h]

theorem escDelim : Statement .escDelim := fun _ => rfl
theorem escEsc : Statement .escEsc := fun _ => rfl
theorem escXon : Statement .escXon := fun _ => rfl
theorem escXoff : Statement .escXoff := fun _ => rfl

theorem escBad (second : Byte) : Statement (.escBad second) := by
  unfold Statement
  revert second
  decide +kernel

end Sys2Proof.Laws.RoundTrip
end

