-- ==== Sys2Proof/Laws/StreamParser.lean ====
section
/-! SUPPORT. What one step of the parser can do, and FEED as its fold. -/

namespace Sys2Proof.Machine

/-- Closing a span emits what DECODE answers on it between two delimiters, and starts the next one (rule R176). -/
theorem closeSpan_eq (ps : ParserState) :
    closeSpan ps =
      (⟨.accumulating, []⟩, [frameDecode ([Config.delim] ++ ps.buf ++ [Config.delim])]) := by
  unfold closeSpan
  rw [span_eq]
  cases h : frameDecode ([Config.delim] ++ ps.buf ++ [Config.delim]) with
  | ok frame => rfl
  | err e =>
    simp only [deliverError_eq]
    rw [if_neg]
    rintro rfl
    exact frameDecode_ne_frameTooLarge _ h

/-- Everything FEED1 can do: the eight rows of the transition table (rule R188), in the order of that table. -/
theorem feed1_cases (maxBuf : Nat) (ps : ParserState) (b : Byte) :
    (ps.tag = .idle ∧ b ≠ Config.delim ∧ feed1 maxBuf ps b = (ps, [])) ∨
    (ps.tag = .idle ∧ b = Config.delim ∧ feed1 maxBuf ps b = (⟨.accumulating, []⟩, [])) ∨
    (ps.tag = .accumulating ∧ b = Config.delim ∧ ps.buf ≠ [] ∧ feed1 maxBuf ps b = closeSpan ps) ∨
    (ps.tag = .accumulating ∧ b = Config.delim ∧ ps.buf = [] ∧ feed1 maxBuf ps b = (ps, [])) ∨
    (ps.tag = .accumulating ∧ b ≠ Config.delim ∧ ps.buf.length < maxBuf ∧
      feed1 maxBuf ps b = (⟨.accumulating, ps.buf ++ [b]⟩, [])) ∨
    (ps.tag = .accumulating ∧ b ≠ Config.delim ∧ maxBuf ≤ ps.buf.length ∧
      feed1 maxBuf ps b = (⟨.error, []⟩, [.err .frameTooLarge])) ∨
    (ps.tag = .error ∧ b ≠ Config.delim ∧ feed1 maxBuf ps b = (ps, [])) ∨
    (ps.tag = .error ∧ b = Config.delim ∧ feed1 maxBuf ps b = (⟨.accumulating, []⟩, [])) := by
  obtain ⟨tag, buf⟩ := ps
  by_cases hb : b = Config.delim
  · cases tag
    · simp [feed1, hb, ParserState.startSpan]
    · cases buf <;> simp [feed1, hb]
    · simp [feed1, hb, ParserState.startSpan]
  · cases tag
    · simp [feed1, hb]
    · by_cases hl : buf.length < maxBuf
      · simp [feed1, hb, hl]
      · simp [feed1, hb, hl, deliverError_eq, Nat.le_of_not_lt hl]
    · simp [feed1, hb]

@[simp] theorem feedBytes_nil (maxBuf : Nat) (ps : ParserState) : feedBytes maxBuf ps [] = (ps, []) := rfl

theorem feedBytes_cons (maxBuf : Nat) (ps : ParserState) (b : Byte) (rest : List Byte) :
    feedBytes maxBuf ps (b :: rest) =
      ((feedBytes maxBuf (feed1 maxBuf ps b).1 rest).1,
       (feed1 maxBuf ps b).2 ++ (feedBytes maxBuf (feed1 maxBuf ps b).1 rest).2) := rfl

/-- FEED of one byte is FEED1 (rule R85). -/
@[simp] theorem feedBytes_singleton (maxBuf : Nat) (ps : ParserState) (b : Byte) :
    feedBytes maxBuf ps [b] = feed1 maxBuf ps b := by
  simp [feedBytes_cons]

end Sys2Proof.Machine
end

