-- ==== Sys2Proof/Laws/Step.lean ====
section
/-! SUPPORT. What a step can do: it answers next in one of three ways, and the word the host presents is performed. -/

namespace Sys2Proof.Machine

/-- Everything a step that answers next can have done. -/
theorem step_eq_next {s t : State} (h : step s = .next t) :
    (s.inputs = [] ∧ t = s) ∨
    (∃ rest, s.inputs = .reset :: rest ∧ t = hardwareReset { s with inputs := rest }) ∨
    (∃ r rest i, s.inputs = .request r :: rest ∧ decode r = .ok i ∧ exec i { s with inputs := rest } = .next t) := by
  obtain ⟨ps, maxBuf, inputs, response⟩ := s
  match inputs with
  | [] => cases h; exact .inl ⟨rfl, rfl⟩
  | .reset :: rest => cases h; exact .inr (.inl ⟨rest, rfl, rfl⟩)
  | .request r :: rest =>
    refine .inr (.inr ?_)
    simp only [step, State.takeInput] at h
    split at h
    · exact ⟨r, rest, _, rfl, by assumption, h⟩
    · cases h

/-- The next step after `withFetchWord` performs the table word's instruction at the state as it was. -/
theorem step_withFetchWord {s : State} {nbits w : Nat} {i : Instr} (h : decodeTableWord nbits w = some i) :
    step (s.withFetchWord nbits w) = exec i s := by
  unfold decodeTableWord at h
  unfold State.withFetchWord
  split at h
  · cases h
  · split at h
    · cases h; simp_all [step]
    · cases h

/-- A run of any machine goes on from the state its first step answers. -/
theorem run_succ_of_next (M : Host.Core) (k : Nat) (s t : M.State) (h : M.step s = .next t) :
    M.run (k + 1) s = M.run k t := by
  rw [Host.Core.run, h]

end Sys2Proof.Machine
end

