-- ==== Sys2Proof/Laws/WireSymbols.lean ====
section
/-! SUPPORT. What presenting a lone symbol or pair does. -/

namespace Sys2Proof.Machine

/-- A symbol at the parser does what FEED of that one byte does (rules R18, R85). -/
theorem presentSymbol_parser (b : Byte) (s : State) : presentSymbol .parser b s = execFeed [b] s := by
  simp only [presentSymbol, execFeed, feedBytes_singleton]

/-- A symbol at STUFF's input does what STUFF of that one byte does. -/
theorem presentSymbol_stuffer (b : Byte) (s : State) : presentSymbol .stuffer b s = execStuff [b] s := by
  simp [presentSymbol, execStuff]

/-- A symbol at DESTUFF's input does what DESTUFF of that one byte does. -/
theorem presentSymbol_destuffer (b : Byte) (s : State) : presentSymbol .destuffer b s = execDestuff [b] s := rfl

/-- A pair does what DESTUFF of its two bytes does. -/
theorem presentPair_eq (f : Byte) (s : State) : presentPair f s = execDestuff [Config.esc, f] s := rfl

end Sys2Proof.Machine
end

