-- ==== Sys2Proof/Tests/Slice0.lean ====
section
/-! SUPPORT. Tests. The words and the expected results are those of the spec's tables and of its test vectors
(spec/95_test_vectors.md, named in each test's comment), or hand calculation from its rules. Then, for every statement
with hypotheses, a witness that meets them. -/

namespace Sys2Proof.Tests

open Sys2Proof.Machine Sys2Proof.Reference

/-- A parser state, nothing presented, nothing delivered. -/
abbrev machine (tag : Tag) (buf : List Byte) (maxBuf : Nat := 518) : State :=
  { ps := { tag := tag, buf := buf }, maxBuf := maxBuf, inputs := [], response := none }

/-- What an instruction delivers. -/
abbrev delivered (i : Instr) (s : State := State.reset) : Option Response :=
  match exec i s with
  | .next t => t.response
  | .fault _ | .refused _ => none

/-- The parser's state after an instruction. -/
abbrev parserAfter (i : Instr) (s : State := State.reset) : Option ParserState :=
  match exec i s with
  | .next t => some t.ps
  | .fault _ | .refused _ => none

/-! ### WellFormed refuses -/

theorem test_lit_refuses_reserved : ∀ b ∈ Config.reserved, (Instr.lit .parser b).wellFormed = false := by decide
theorem test_escBad_refuses_valid : ∀ f ∈ Config.escapedBytes, (Instr.escBad f).wellFormed = false := by decide
theorem test_wellFormed_accepts :
    (Instr.lit .parser 0x12#8).wellFormed = true ∧ (Instr.escBad 0x7D#8).wellFormed = true ∧
    (Instr.encode 0#8 0#8 (List.replicate 256 0#8)).wellFormed = true := by decide

/-! ### Decoding: a word of every row, written from the tables of rules R72, R74 and R75 -/

theorem test_decode_stuff : decode (.op 0b000#3 [0x7E#8]) = .ok (.stuff [0x7E#8]) := by rfl
theorem test_decode_destuff : decode (.op 0b001#3 [0x7D#8, 0x5E#8]) = .ok (.destuff [0x7D#8, 0x5E#8]) := by rfl
theorem test_decode_csumCompute : decode (.op 0b010#3 [0x01#8]) = .ok (.csumCompute [0x01#8]) := by rfl
theorem test_decode_csumVerify : decode (.op 0b011#3 [0xFF#8]) = .ok (.csumVerify [0xFF#8]) := by rfl
theorem test_decode_encode : decode (.op 0b100#3 [0x01#8, 0x02#8, 0x03#8]) = .ok (.encode 0x01#8 0x02#8 [0x03#8]) := by rfl
theorem test_decode_decode : decode (.op 0b101#3 [0x7E#8]) = .ok (.decode [0x7E#8]) := by rfl
theorem test_decode_feed : decode (.op 0b110#3 [0x7E#8]) = .ok (.feed [0x7E#8]) := by rfl
theorem test_decode_preset : decode (.op 0b111#3 []) = .ok .preset := by rfl
theorem test_decode_symbols :
    decodeSym8 .parser 0b01111110#8 = .delim .parser ∧ decodeSym8 .parser 0b01111101#8 = .esc .parser ∧
    decodeSym8 .stuffer 0b00010001#8 = .xon .stuffer ∧ decodeSym8 .destuffer 0b00010011#8 = .xoff .destuffer ∧
    decodeSym8 .parser 0b01111111#8 = .lit .parser 0x7F#8 := by decide
theorem test_decode_escDelim : decode (.esc16 0b0111110101011110#16) = .ok .escDelim := by rfl
theorem test_decode_escEsc : decode (.esc16 0b0111110101011101#16) = .ok .escEsc := by rfl
theorem test_decode_escXon : decode (.esc16 0b0111110100110001#16) = .ok .escXon := by rfl
theorem test_decode_escXoff : decode (.esc16 0b0111110100110011#16) = .ok .escXoff := by rfl
theorem test_decode_escBad : decode (.esc16 0b0111110100100000#16) = .ok (.escBad 0x20#8) := by rfl
theorem test_decode_rejects :
    decode (.op 0b100#3 [0x00#8]) = .error .missingOperand ∧ decode (.op 0b111#3 [0x00#8]) = .error .unexpectedOperand ∧
    decode (.esc16 0x5E7D#16) = .error .notAnEscapePair := ⟨rfl, rfl, rfl⟩

/-- Every row's word, with operand bits zero, decodes to the row's instruction; LIT by a byte that is no OP word. -/
theorem test_table_words :
    [(8, 0), (8, 1), (8, 2), (8, 3), (8, 4), (8, 5), (8, 6), (8, 7), (8, 0x7E), (8, 0x7D), (8, 0x11), (8, 0x13), (8, 0x55),
     (16, 0x7D5E), (16, 0x7D5D), (16, 0x7D31), (16, 0x7D33), (16, 0x7D00)].map
      (fun (nbits, w) => (decodeTableWord nbits w).map Instr.mnemonic) =
    [some "STUFF", some "DESTUFF", some "CSUM.COMPUTE", some "CSUM.VERIFY", some "ENCODE", some "DECODE", some "FEED",
     some "PRESET", some "DELIM", some "ESC", some "XON", some "XOFF", some "LIT", some "ESC.DELIM", some "ESC.ESC",
     some "ESC.XON", some "ESC.XOFF", some "ESC.BAD"] := by decide
theorem test_table_word_refused : decodeTableWord 16 0x7E5E = none ∧ decodeTableWord 8 256 = none ∧ decodeTableWord 24 0 = none := by
  decide

/-! ### The operations -/

/-- S8: ten bytes, four of them reserved; an input pair `7D 5E` becomes `7D 5D 5E`. -/
theorem test_stuff : delivered (.stuff [0x00#8, 0x7D#8, 0x5E#8, 0x7E#8, 0xFF#8, 0x11#8, 0x12#8, 0x13#8, 0x31#8, 0x33#8]) =
    some (.bytes (.ok [0x00#8, 0x7D#8, 0x5D#8, 0x5E#8, 0x7D#8, 0x5E#8, 0xFF#8, 0x7D#8, 0x31#8, 0x12#8, 0x7D#8, 0x33#8,
      0x31#8, 0x33#8])) := by decide
/-- S10: the neighbours of the reserved values are literals. -/
theorem test_stuff_neighbours : delivered (.stuff [0x7C#8, 0x7F#8, 0x10#8, 0x12#8, 0x14#8]) =
    some (.bytes (.ok [0x7C#8, 0x7F#8, 0x10#8, 0x12#8, 0x14#8])) := by decide
/-- U3 and U4. -/
theorem test_destuff : delivered (.destuff [0x7D#8, 0x5D#8, 0x7D#8, 0x31#8, 0x7D#8, 0x33#8, 0x7D#8, 0x5D#8, 0x5E#8]) =
    some (.bytes (.ok [0x7D#8, 0x11#8, 0x13#8, 0x7D#8, 0x5E#8])) := by decide
/-- U7, U8, U12, U14. -/
theorem test_destuff_fails : ∀ x ∈ [[0x01#8, 0x7D#8], [0x7D#8, 0x7D#8], [0x7D#8, 0x7D#8, 0x5D#8], [0x7D#8, 0x5E#8, 0x7D#8]],
    delivered (.destuff x) = some (.bytes (.err .invalidEscape)) := by decide
/-- K8: a sum past 256 twice. -/
theorem test_csumCompute : delivered (.csumCompute [0xFF#8, 0xFF#8, 0xFF#8]) = some (.byte (.ok 0x02#8)) := by decide
/-- K1. -/
theorem test_csumCompute_empty : delivered (.csumCompute []) = some (.byte (.ok 0xFF#8)) := by decide
/-- K15, K19, K20, K21. -/
theorem test_csumVerify : ∀ x ∈ [[0xFF#8], [0x01#8, 0x02#8, 0x03#8, 0xF9#8], [0x80#8, 0x80#8, 0xFF#8], [0xFF#8, 0x00#8]],
    delivered (.csumVerify x) = some (.bool (.ok true)) := by decide
/-- K14, K16, K18, K22. -/
theorem test_csumVerify_false :
    ∀ x ∈ [[], [0x00#8], [0x00#8, 0x00#8, 0x00#8, 0xFE#8], [0x01#8, 0x02#8, 0x83#8, 0xF9#8]],
    delivered (.csumVerify x) = some (.bool (.ok false)) := by decide
/-- E6: a reserved address, command and data are all stuffed. -/
theorem test_encode : delivered (.encode 0x7E#8 0x7D#8 [0x11#8, 0x13#8]) =
    some (.bytes (.ok [0x7E#8, 0x7D#8, 0x5E#8, 0x7D#8, 0x5D#8, 0x02#8, 0x7D#8, 0x31#8, 0x7D#8, 0x33#8, 0xDE#8, 0x7E#8])) := by
  decide
/-- E14 and E17: 255 data bytes are accepted, 256 are not. -/
theorem test_encode_limit :
    delivered (.encode 0x00#8 0x00#8 (List.replicate 255 0x00#8)) =
      some (.bytes (.ok ([0x7E#8, 0x00#8, 0x00#8, 0xFF#8] ++ List.replicate 255 0x00#8 ++ [0x00#8, 0x7E#8]))) ∧
    delivered (.encode 0x00#8 0x00#8 (List.replicate 256 0x00#8)) = some (.bytes (.err .dataTooLong)) := by decide +kernel
/-- D2: the inverse of E4. -/
theorem test_decode_frame : delivered (.decode [0x7E#8, 0x00#8, 0x03#8, 0x01#8, 0x7D#8, 0x5E#8, 0x7D#8, 0x5D#8, 0x7E#8]) =
    some (.frame (.ok ⟨0x00#8, 0x03#8, [0x7E#8]⟩)) := by decide
/-- Rule R154's cases with D4, D5, D10 and D11: each stage decides once. -/
theorem test_decode_stages :
    [[0x7E#8], [0x7E#8, 0x7D#8, 0x7E#8, 0x00#8, 0x7E#8], [0x7E#8, 0x7D#8, 0x7E#8],
     [0x7E#8, 0x00#8, 0x00#8, 0x7D#8, 0x00#8, 0xFF#8, 0x7E#8], [0x7E#8, 0x7E#8],
     [0x7E#8, 0x7D#8, 0x5E#8, 0x00#8, 0x00#8, 0x7E#8], [0x7E#8, 0x00#8, 0x00#8, 0x05#8, 0x00#8, 0x7E#8],
     [0x7E#8, 0x00#8, 0x00#8, 0x00#8, 0xFE#8, 0x7E#8]].map (fun w => delivered (.decode w)) =
    [Error.missingDelimiter, .missingDelimiter, .invalidEscape, .invalidEscape, .frameTooShort, .frameTooShort,
     .lengthMismatch, .checksumMismatch].map (fun e => some (.frame (.err e))) := by decide
/-- Program 2: three frames with shared delimiters, the middle one corrupted. -/
theorem test_feed :
    delivered (.feed [0x7E#8, 0x00#8, 0x00#8, 0x00#8, 0xFF#8, 0x7E#8, 0x00#8, 0xD3#8, 0x00#8, 0x2D#8, 0x7E#8, 0x00#8,
      0x00#8, 0x02#8, 0x01#8, 0x03#8, 0xF9#8, 0x7E#8]) =
    some (.events [.ok ⟨0x00#8, 0x00#8, []⟩, .err .checksumMismatch, .ok ⟨0x00#8, 0x00#8, [0x01#8, 0x03#8]⟩]) := by decide
/-- P16, `MAX_BUF = 0`: one byte overflows, the next is dropped, the delimiter resynchronizes. -/
theorem test_feed_overflow :
    delivered (.feed [0x7E#8, 0x7E#8, 0x01#8, 0x02#8, 0x7E#8, 0x7E#8]) (machine .idle [] 0) =
      some (.events [.err .frameTooLarge]) ∧
    parserAfter (.feed [0x7E#8, 0x7E#8, 0x01#8, 0x02#8, 0x7E#8, 0x7E#8]) (machine .idle [] 0) =
      some ⟨.accumulating, []⟩ := by decide
/-- P13: a partial frame is dropped without an event. -/
theorem test_preset : parserAfter .preset (machine .accumulating [0x00#8, 0x00#8]) = some ⟨.idle, []⟩ := by decide
theorem test_preset_response : delivered .preset (machine .error []) = some .done := by decide

/-! ### Wire symbols and escape pairs -/

/-- Rule R188: a delimiter closes a span; P12, a full buffer is no overflow. -/
theorem test_delim_parser :
    delivered (.delim .parser) (machine .accumulating [0x00#8, 0x00#8, 0x00#8, 0xFF#8] 4) =
      some (.events [.ok ⟨0x00#8, 0x00#8, []⟩]) ∧
    parserAfter (.delim .parser) (machine .error []) = some ⟨.accumulating, []⟩ := by decide
/-- Rule R74, the first two columns. -/
theorem test_delim_other_ports : delivered (.delim .stuffer) = some (.bytes (.ok [0x7D#8, 0x5E#8])) ∧
    delivered (.delim .destuffer) = some (.bytes (.ok [0x7E#8])) := by decide
/-- Rule R74: to the parser an escape byte is an ordinary byte. -/
theorem test_esc_parser : parserAfter (.esc .parser) (machine .accumulating [0x01#8]) =
    some ⟨.accumulating, [0x01#8, 0x7D#8]⟩ := by decide
/-- S3 and U6. -/
theorem test_esc_other_ports : delivered (.esc .stuffer) = some (.bytes (.ok [0x7D#8, 0x5D#8])) ∧
    delivered (.esc .destuffer) = some (.bytes (.err .invalidEscape)) := by decide
/-- S4 and rule R78 (c). -/
theorem test_xon : delivered (.xon .stuffer) = some (.bytes (.ok [0x7D#8, 0x31#8])) ∧
    delivered (.xon .destuffer) = some (.bytes (.ok [0x11#8])) ∧
    parserAfter (.xon .parser) (machine .idle []) = some ⟨.idle, []⟩ := by decide
/-- S5 and rule R78 (c). -/
theorem test_xoff : delivered (.xoff .stuffer) = some (.bytes (.ok [0x7D#8, 0x33#8])) ∧
    delivered (.xoff .destuffer) = some (.bytes (.ok [0x13#8])) ∧
    parserAfter (.xoff .parser) (machine .error []) = some ⟨.error, []⟩ := by decide
/-- P11: the byte after a full buffer. -/
theorem test_lit : delivered (.lit .parser 0x05#8) (machine .accumulating [0x01#8, 0x02#8, 0x03#8, 0x04#8] 4) =
      some (.events [.err .frameTooLarge]) ∧
    parserAfter (.lit .parser 0x05#8) (machine .accumulating [0x01#8, 0x02#8, 0x03#8, 0x04#8] 4) = some ⟨.error, []⟩ := by
  decide
/-- Rule R77: a second-half value alone is a literal. -/
theorem test_lit_other_ports : delivered (.lit .stuffer 0x5E#8) = some (.bytes (.ok [0x5E#8])) ∧
    delivered (.lit .destuffer 0x5E#8) = some (.bytes (.ok [0x5E#8])) := by decide
/-- U15. -/
theorem test_escape_pairs : [Instr.escDelim, .escEsc, .escXon, .escXoff].map (fun i => delivered i) =
    [0x7E#8, 0x7D#8, 0x11#8, 0x13#8].map (fun b => some (.bytes (.ok [b]))) := by decide
/-- U11 and U8: one bit away from a valid second byte, and an escape after an escape. -/
theorem test_escBad : ∀ f ∈ [0x5F#8, 0x5C#8, 0x32#8, 0x30#8, 0x20#8, 0x7D#8, 0x7E#8],
    delivered (.escBad f) = some (.bytes (.err .invalidEscape)) := by decide

/-! ### Steps and codes -/

/-- Rule R230: a reset leaves `Idle`, an empty buffer and what was delivered. -/
theorem test_step_reset :
    step { machine .accumulating [0x01#8] with inputs := [.reset, .reset], response := some .done } =
      .next { machine .idle [] with inputs := [.reset], response := some .done } := by rfl
theorem test_withFetchWord :
    step (State.reset.withFetchWord 16 0x7D31) = .next { State.reset with response := some (.bytes (.ok [0x11#8])) } := by rfl
/-- Rules R21 and R201. -/
theorem test_codes : [Tag.idle, .accumulating, .error].map tagCode = [0#2, 1#2, 2#2] ∧
    [Error.dataTooLong, .invalidEscape, .missingDelimiter, .frameTooShort, .lengthMismatch, .checksumMismatch,
      .frameTooLarge].map errorCode = [1#4, 2#4, 3#4, 4#4, 5#4, 6#4, 7#4] := by decide
/-- The largest body has 517 bytes (rule R66's example). -/
theorem test_largest_body :
    (stuff (adu 0x7E#8 0x7E#8 (List.replicate 51 0x11#8 ++ List.replicate 204 0x13#8))).length = 517 := by decide +kernel

/-! ### Witnesses: for each statement with hypotheses, a state and operands that meet them -/

abbrev goodBody : List Byte := [0x00#8, 0x00#8, 0x00#8, 0xFF#8]
abbrev holding (buf : List Byte) (maxBuf : Nat) : State := machine .accumulating buf maxBuf

theorem goodBody_unstuffs : Unstuffs goodBody goodBody :=
  .plain (by decide) (.plain (by decide) (.plain (by decide) (.plain (by decide) .nil)))

theorem witness_StepPerformsTheFirstInput :
    (∃ s : State, s.inputs = .request (.op 7#3 []) :: [] ∧ decode (.op 7#3 []) = .ok .preset) ∧
    (∃ s : State, s.inputs = .reset :: []) ∧
    (∃ s : State, s.inputs = .request (.esc16 0#16) :: [] ∧ decode (.esc16 0#16) = .error .notAnEscapePair) ∧
    (∃ s : State, s.inputs = []) :=
  ⟨⟨State.reset.present (.op 7#3 []), rfl, rfl⟩, ⟨{ State.reset with inputs := [.reset] }, rfl⟩,
   ⟨State.reset.present (.esc16 0#16), rfl, rfl⟩, ⟨State.reset, rfl⟩⟩

theorem witness_DecodeAndEncodeAgree :
    (Instr.lit .stuffer 0xFF#8).wellFormed = true ∧ decode (.esc16 0x7DFF#16) = .ok (.escBad 0xFF#8) := ⟨by decide, rfl⟩

theorem witness_DecoderPicksTheMostSpecificRow :
    decode (.op 7#3 []) = .ok .preset ∧ decode (.esc16 0x7D7D#16) = .ok (.escBad 0x7D#8) := ⟨rfl, rfl⟩

theorem witness_EveryStepKeepsTheStateSafe :
    ∃ s t : State, s.Inv ∧ step s = .next t :=
  ⟨{ holding [0x01#8] 2 with inputs := [.request (.sym8 .parser 0x02#8)] }, _, by decide, rfl⟩

theorem witness_EveryDecodableRunStaysSafe :
    ∃ s : State, s.Inv ∧ s.inputs ≠ [] ∧ ∀ r, Input.request r ∈ s.inputs → ∃ i, decode r = .ok i :=
  ⟨{ holding [0x01#8] 1 with inputs := [.request (.sym8 .parser 0x02#8), .reset] }, by decide, by decide, by
    intro r hr
    simp only [List.mem_cons, Input.request.injEq, List.not_mem_nil, reduceCtorEq, or_false] at hr
    exact ⟨_, by rw [hr]; rfl⟩⟩

theorem witness_StepsKeepTheParameterAndTheQueue :
    ∃ s t : State, step s = .next t ∧ s.inputs ≠ [] :=
  ⟨State.reset.present (.op 6#3 [0x7E#8]), _, rfl, by decide⟩

theorem witness_EachOperationDeliversOnlyItsOwnErrors :
    (holding [0x01#8] 1).ps.Inv 1 ∧ (machine .error [] 0).ps.Inv 0 ∧ (machine .idle [] 0).ps.Inv 0 := by decide

theorem witness_StuffIsInjectiveAndNotSurjective : ([] : List Byte) ≠ [0x00#8] := by decide

theorem witness_DestuffReadsTheSymbolCode :
    Unstuffs [0x7D#8, 0x33#8, 0x11#8] [0x13#8, 0x11#8] ∧ ∀ out, ¬ Unstuffs [0x7D#8] out :=
  ⟨.pair (by decide) (.plain (by decide) .nil), fun out h => by cases h; contradiction⟩

theorem witness_DestuffPassesRawReservedBytes : 0x7D#8 ∉ [0x11#8, 0x13#8, 0x7E#8] := by decide

theorem witness_DestuffLengthDropsOneBytePerPair :
    exec (.destuff [0x7D#8, 0x5E#8]) State.reset = .next { State.reset with response := some (.bytes (.ok [0x7E#8])) } := rfl

theorem witness_ChecksumAccumulatesByteByByteInAnyOrder : [0x01#8, 0x02#8].Perm [0x02#8, 0x01#8] := .swap _ _ _

theorem witness_VerifyDetectsEverySingleBitFlip :
    [0xFF#8] ≠ ([] : List Byte) ∧ 7 < 8 ∧
    exec (.csumVerify ([0x00#8] ++ 0xFF#8 :: [])) State.reset =
      .next { State.reset with response := some (.bool (.ok true)) } := ⟨by decide, by decide, rfl⟩

theorem witness_EncodeBuildsTheWireFrame :
    (List.replicate 255 0x00#8).length ≤ 255 ∧ 255 < (List.replicate 256 0x00#8).length := by
  rw [List.length_replicate, List.length_replicate]; omega

theorem witness_EncodedFramesHaveTheStatedShape : (List.replicate 255 0x7E#8).length ≤ 255 := by
  rw [List.length_replicate]

/-- At 3 unstuffed bytes the first clause applies; at 4 the others: `05` declares too much, `FE` does not verify. -/
theorem witness_DecodeReportsTheFirstFailingStage :
    (0x7E#8 ∉ [0x7D#8, 0x5E#8, 0x00#8, 0x00#8] ∧
      Unstuffs [0x7D#8, 0x5E#8, 0x00#8, 0x00#8] [0x7E#8, 0x00#8, 0x00#8] ∧ [0x7E#8, 0x00#8, 0x00#8].length = 3) ∧
    (0x7E#8 ∉ [0x00#8, 0x00#8, 0x05#8, 0x00#8] ∧
      Unstuffs [0x00#8, 0x00#8, 0x05#8, 0x00#8] [0x00#8, 0x00#8, 0x05#8, 0x00#8] ∧
      [0x00#8, 0x00#8, 0x05#8, 0x00#8].length - 3 ≠ (0x05#8 : Byte).toNat + 1) ∧
    (0x7E#8 ∉ [0x00#8, 0x00#8, 0x00#8, 0xFE#8] ∧
      Unstuffs [0x00#8, 0x00#8, 0x00#8, 0xFE#8] [0x00#8, 0x00#8, 0x00#8, 0xFE#8] ∧
      exec (.csumVerify [0x00#8, 0x00#8, 0x00#8, 0xFE#8]) State.reset =
        .next { State.reset with response := some (.bool (.ok false)) }) :=
  ⟨⟨by decide, .pair (by decide) (.plain (by decide) (.plain (by decide) .nil)), rfl⟩,
   ⟨by decide, .plain (by decide) (.plain (by decide) (.plain (by decide) (.plain (by decide) .nil))), by decide⟩,
   ⟨by decide, .plain (by decide) (.plain (by decide) (.plain (by decide) (.plain (by decide) .nil))), rfl⟩⟩

theorem witness_DecodePropagatesInvalidEscape :
    0x7E#8 ∉ [0x7D#8] ∧ ∀ out, ¬ Unstuffs [0x7D#8] out :=
  ⟨by decide, witness_DestuffReadsTheSymbolCode.2⟩

theorem witness_DecodeDeliversTheFieldsInPlace :
    0x7E#8 ∉ goodBody ∧ Unstuffs goodBody goodBody ∧ goodBody[0]? = some 0x00#8 ∧ goodBody[1]? = some 0x00#8 ∧
    goodBody[2]? = some 0x00#8 ∧ goodBody.length = (0x00#8 : Byte).toNat + 4 ∧
    exec (.csumVerify goodBody) State.reset = .next { State.reset with response := some (.bool (.ok true)) } :=
  ⟨by decide, goodBody_unstuffs, by decide, by decide, by decide, by decide, rfl⟩

theorem witness_DecodeAcceptsExactlyTheValidFrames :
    exec (.decode (wireOf goodBody)) State.reset =
      .next { State.reset with response := some (.frame (.ok ⟨0x00#8, 0x00#8, []⟩)) } := rfl

theorem witness_DecodeUndoesEncode : ([] : List Byte).length ≤ 255 := by decide

theorem witness_DecodeDetectsEverySingleBitFlip :
    ([] : List Byte).length ≤ 255 ∧ 7 < 8 ∧
    aduOf 0x00#8 0x00#8 [] = [0x00#8, 0x00#8] ++ 0x00#8 :: [0xFF#8] ∧
    aduOf 0x00#8 0x00#8 [] = [0x00#8, 0x00#8, 0x00#8] ++ 0xFF#8 :: [] := by decide

theorem witness_IdleDropsNoise :
    decode (.sym8 .parser 0x7D#8) = .ok (.esc .parser) ∧ State.reset.ps.tag = .idle ∧ 0x7D#8 ≠ 0x7E#8 :=
  ⟨rfl, rfl, by decide⟩

theorem witness_DelimiterInIdleStartsASpan : Instr.delim .parser = .delim .parser ∧ State.reset.ps.tag = .idle := ⟨rfl, rfl⟩

theorem witness_DelimiterClosesANonEmptySpan :
    ∃ s : State, s.ps.tag = .accumulating ∧ s.ps.buf ≠ [] ∧ exec (.decode ([0x7E#8] ++ s.ps.buf ++ [0x7E#8])) s =
      .next { s with response := some (.frame (.err .frameTooShort)) } :=
  ⟨holding [0x00#8] 1, rfl, by decide, rfl⟩

theorem witness_DelimiterOnAnEmptySpanGivesNoEvent :
    (holding [] 0).ps.tag = .accumulating ∧ (holding [] 0).ps.buf = [] := ⟨rfl, rfl⟩

theorem witness_OrdinaryBytesAreAppended :
    decode (.sym8 .parser 0x11#8) = .ok (.xon .parser) ∧ (holding [0x01#8] 2).ps.tag = .accumulating ∧
    0x11#8 ≠ 0x7E#8 ∧ (holding [0x01#8] 2).ps.buf.length < (holding [0x01#8] 2).maxBuf :=
  ⟨rfl, rfl, by decide, by decide⟩

theorem witness_OverflowForcesError :
    decode (.sym8 .parser 0x13#8) = .ok (.xoff .parser) ∧ (holding [0x01#8] 1).ps.tag = .accumulating ∧
    0x13#8 ≠ 0x7E#8 ∧ (holding [0x01#8] 1).ps.buf.length = (holding [0x01#8] 1).maxBuf := ⟨rfl, rfl, by decide, rfl⟩

theorem witness_ErrorDropsBytes :
    decode (.sym8 .parser 0xFF#8) = .ok (.lit .parser 0xFF#8) ∧ (machine .error []).ps.tag = .error ∧ 0xFF#8 ≠ 0x7E#8 :=
  ⟨rfl, rfl, by decide⟩

theorem witness_DelimiterInErrorResynchronizes : (machine .error []).ps.tag = .error := rfl

theorem witness_EventsAreBoundedByDelimiters : 0x7E#8 ∉ [0x7D#8, 0x00#8] := by decide

theorem witness_PartialFramesPersist :
    (holding [0x01#8] 3).ps.tag = .accumulating ∧ 0x7E#8 ∉ [0x7D#8, 0x02#8] ∧
    (holding [0x01#8] 3).ps.buf.length + [0x7D#8, 0x02#8].length ≤ (holding [0x01#8] 3).maxBuf ∧
    (holding [0x01#8] 3).inputs = [] := by decide

theorem witness_OversizedRunGivesOneError :
    (holding [0x01#8] 1).ps.tag = .accumulating ∧ 0x7E#8 ∉ [0x02#8] ∧
    (holding [0x01#8] 1).ps.buf.length ≤ (holding [0x01#8] 1).maxBuf ∧
    (holding [0x01#8] 1).maxBuf < (holding [0x01#8] 1).ps.buf.length + [0x02#8].length ∧
    (machine .error []).ps.tag = .error := by decide

theorem witness_ErrorEventsLeaveTheStatedParserState :
    delivered (.feed [0x7E#8]) (holding [0x00#8] 1) = some (.events [.err .frameTooShort]) ∧
    delivered (.feed [0x00#8]) (holding [0x00#8] 1) = some (.events [.err .frameTooLarge]) := by decide

theorem witness_IdleSkipsToTheFirstDelimiter : State.reset.ps.tag = .idle ∧ 0x7E#8 ∉ [0x01#8, 0x7D#8] := by decide

theorem witness_NothingBeforePresetIsEverSeenAfter : (holding [0x01#8] 518).maxBuf = State.reset.maxBuf := rfl

theorem witness_ParserRecoversEveryEncodedFrame :
    ([] : List Byte).length ≤ 255 ∧ (wireOf goodBody).length - 2 ≤ (machine .error [] 4).maxBuf ∧
    (machine .error [] 4).ps.buf = [] ∧ (wireOf goodBody).length - 2 ≤ (holding [0x00#8] 4).maxBuf ∧
    (holding [0x00#8] 4).ps.tag = .accumulating ∧ (holding [0x00#8] 4).ps.buf ≠ [] ∧
    exec (.decode (wireOf [0x00#8])) (holding [0x00#8] 4) =
      .next { holding [0x00#8] 4 with response := some (.frame (.err .frameTooShort)) } :=
  ⟨by decide, by decide, rfl, by decide, rfl, by decide, rfl⟩

theorem witness_ParserResynchronizesAfterABadFrame :
    goodBody.length ≤ (machine .idle [] 4).maxBuf ∧ (machine .idle [] 4).ps.buf = [] ∧
    [0x00#8] ≠ [] ∧ 0x7E#8 ∉ [0x00#8] ∧ [0x00#8].length ≤ (machine .idle [] 4).maxBuf ∧
    exec (.decode (wireOf [0x00#8])) (machine .idle [] 4) =
      .next { machine .idle [] 4 with response := some (.frame (.err .frameTooShort)) } ∧
    (0x7E#8 ∉ List.replicate 5 0x00#8 ∧ (machine .idle [] 4).maxBuf < (List.replicate 5 0x00#8).length) :=
  ⟨by decide, rfl, by decide, by decide, by decide, rfl, by decide⟩

theorem witness_SymbolsAtTheStuffer : 0x5E#8 ∉ [0x7E#8, 0x7D#8, 0x11#8, 0x13#8] := by decide

theorem witness_SymbolsAtTheDestuffer : 0x7F#8 ∉ [0x7E#8, 0x7D#8, 0x11#8, 0x13#8] := by decide

theorem witness_EscapePairsFollowTheEscapeMap : 0x13#8 ∈ [0x7E#8, 0x7D#8, 0x11#8, 0x13#8] := by decide

theorem witness_MalformedPairsAreRejected : 0x7D#8 ∉ [0x5E#8, 0x5D#8, 0x31#8, 0x33#8] := by decide

end Sys2Proof.Tests
end

section
/-! SUPPORT. What each of the six pure operations does to the state, one equation per operation (rules R29, R73): its result,
a function of the operand alone, becomes the delivered one. Proofs cite these instead of unfolding `exec`. -/

namespace Sys2Proof.Machine

@[simp] theorem exec_stuff (x : List Byte) (s : State) :
    exec (.stuff x) s = .next { s with response := some (.bytes (.ok (stuff x))) } := rfl

@[simp] theorem exec_destuff (x : List Byte) (s : State) :
    exec (.destuff x) s = .next { s with response := some (.bytes (destuff x)) } := rfl

@[simp] theorem exec_csumCompute (x : List Byte) (s : State) :
    exec (.csumCompute x) s = .next { s with response := some (.byte (.ok (csumCompute x))) } := rfl

@[simp] theorem exec_csumVerify (x : List Byte) (s : State) :
    exec (.csumVerify x) s = .next { s with response := some (.bool (.ok (csumVerify x))) } := rfl

@[simp] theorem exec_encode (a c : Byte) (d : List Byte) (s : State) :
    exec (.encode a c d) s = .next { s with response := some (.bytes (frameEncode a c d)) } := rfl

@[simp] theorem exec_decode (x : List Byte) (s : State) :
    exec (.decode x) s = .next { s with response := some (.frame (frameDecode x)) } := rfl

/-! ### The state family -/

/-- Settles O11: each operation's equation names the result before the state, and ENCODE's is `Ok` by its own law for data
of valid length. -/
theorem pureOperationsDependOnOperandsAlone : Obligations.PureOperationsDependOnOperandsAlone := by
  unfold Obligations.PureOperationsDependOnOperandsAlone
  refine ⟨?stuff, ?destuff, ?csumCompute, ?csumVerify, ?encode, ?decode⟩
  case stuff => exact fun x => ⟨_, exec_stuff x⟩
  case destuff => exact fun x => ⟨_, exec_destuff x⟩
  case csumCompute => exact fun x => ⟨_, exec_csumCompute x⟩
  case csumVerify => exact fun x => ⟨_, exec_csumVerify x⟩
  case encode => exact fun a c d => ⟨_, exec_encode a c d, fun h => ⟨_, frameEncode_short h⟩⟩
  case decode => exact fun x => ⟨_, exec_decode x⟩

end Sys2Proof.Machine
end

section
/-! SUPPORT. The byte stuffer's family (rules R102 to R109): the escape map and the symbol code in the words of the
statements, DESTUFF as the reader of that code, and STUFF's inverse and length. -/

open Sys2Proof.Reference

namespace Sys2Proof.Reference

/-- Sequences of whole symbols can be joined, and stand for what they stand for one after the other. -/
theorem Unstuffs.append {x y out out' : List Byte} (hx : Unstuffs x out) (hy : Unstuffs y out') :
    Unstuffs (x ++ y) (out ++ out') := by
  induction hx with
  | nil => exact hy
  | plain hb _ ih => exact .plain hb ih
  | pair hf _ ih => exact .pair hf ih

/-- The causes of rule R107: after whole symbols, so at a symbol boundary, an escape byte ends the sequence or is followed
by none of the four second bytes. -/
def HasBadEscape (x : List Byte) : Prop :=
  ∃ before out, Unstuffs before out ∧
    (x = before ++ [0x7D#8] ∨
     ∃ f rest, x = before ++ 0x7D#8 :: f :: rest ∧ f ∉ [0x5E#8, 0x5D#8, 0x31#8, 0x33#8])

theorem hasBadEscape_dangling : HasBadEscape [0x7D#8] := ⟨[], [], .nil, .inl rfl⟩

theorem hasBadEscape_malformed {f : Byte} (hf : f ∉ [0x5E#8, 0x5D#8, 0x31#8, 0x33#8]) (rest : List Byte) :
    HasBadEscape (0x7D#8 :: f :: rest) := ⟨[], [], .nil, .inr ⟨f, rest, rfl, hf⟩⟩

/-- Whole symbols put in front leave the bad escape at a symbol boundary. -/
theorem HasBadEscape.prepend {y out x : List Byte} (hy : Unstuffs y out) (hx : HasBadEscape x) :
    HasBadEscape (y ++ x) := by
  obtain ⟨before, out', hb, rfl | ⟨f, rest, rfl, hf⟩⟩ := hx
  · exact ⟨y ++ before, _, hy.append hb, .inl (by simp)⟩
  · exact ⟨y ++ before, _, hy.append hb, .inr ⟨f, rest, by simp, hf⟩⟩

end Sys2Proof.Reference

namespace Sys2Proof.Machine

/-! ### The escape map -/

theorem escapeByte_escaped_iff (b : Byte) : escapeByte b ∈ Config.escapedBytes ↔ b ∈ Config.reserved := by
  rw [← escapeByte_reserved_iff, escapeByte_escapeByte]

theorem esc_mem_reserved : Config.esc ∈ Config.reserved := by decide

/-- The rows of rule R75's table are the valid second bytes, each with the byte its XOR gives (rule R112). -/
theorem mem_escapeMap_iff (r f : Byte) :
    (r, f) ∈ [(0x7E#8, 0x5E#8), (0x7D#8, 0x5D#8), (0x11#8, 0x31#8), (0x13#8, 0x33#8)] ↔
      f ∈ Config.escapedBytes ∧ r = escapeByte f := by
  simp only [List.mem_cons, List.not_mem_nil, or_false, Prod.mk.injEq]
  constructor
  · rintro (⟨rfl, rfl⟩ | ⟨rfl, rfl⟩ | ⟨rfl, rfl⟩ | ⟨rfl, rfl⟩) <;> decide
  · rintro ⟨rfl | rfl | rfl | rfl, rfl⟩ <;> decide

/-- A valid pair is one whole symbol (rule R76). -/
theorem unstuffs_pair {f : Byte} (hf : f ∈ Config.escapedBytes) : Unstuffs [Config.esc, f] [escapeByte f] :=
  .pair ((mem_escapeMap_iff _ f).2 ⟨hf, rfl⟩) .nil

/-- A byte other than the escape byte is one whole symbol (rule R76). -/
theorem unstuffs_plain {b : Byte} (hb : b ≠ Config.esc) : Unstuffs [b] [b] := .plain hb .nil

/-- What STUFF emits for one byte, in the words of rule R102. -/
theorem stuffByte_eq (b : Byte) :
    stuffByte b =
      if b = 0x7E#8 ∨ b = 0x7D#8 ∨ b = 0x11#8 ∨ b = 0x13#8 then [0x7D#8, b ^^^ 0x20#8] else [b] := by
  simp only [stuffByte, escapeByte, List.mem_cons, List.not_mem_nil, or_false]

/-! ### DESTUFF as the reader of the symbol code -/

theorem map_map {α β γ : Type} (f : α → β) (g : β → γ) (r : Result α) :
    (r.map f).map g = r.map (fun v => g (f v)) := by
  cases r <;> rfl

/-- DESTUFF reads whole symbols as what they stand for and goes on with the rest (rule R106). -/
theorem destuff_append {x out : List Byte} (h : Unstuffs x out) (rest : List Byte) :
    destuff (x ++ rest) = (destuff rest).map (out ++ ·) := by
  induction h with
  | nil => rw [List.nil_append]; cases destuff rest <;> rfl
  | plain hb _ ih =>
    rw [List.cons_append, destuff_plain hb, ih, map_map]
    rfl
  | pair hrf _ ih =>
    obtain ⟨hf, rfl⟩ := (mem_escapeMap_iff _ _).1 hrf
    rw [List.cons_append, List.cons_append, destuff_pair hf, ih, map_map]
    rfl

theorem destuff_of_unstuffs {x out : List Byte} (h : Unstuffs x out) : destuff x = .ok out := by
  simpa using destuff_append h []

theorem destuff_of_hasBadEscape {x : List Byte} (h : HasBadEscape x) : destuff x = .err .invalidEscape := by
  obtain ⟨before, out, hb, rfl | ⟨f, rest, rfl, hf⟩⟩ := h
  · rw [destuff_append hb, destuff_dangling, map_err]
  · rw [destuff_append hb, destuff_malformed hf, map_err]

/-- Every byte sequence is one of whole symbols or has a bad escape, by the recursion of DESTUFF. -/
theorem unstuffs_or_hasBadEscape (x : List Byte) : (∃ out, Unstuffs x out) ∨ HasBadEscape x := by
  have after {y out rest : List Byte} (hy : Unstuffs y out) :
      (∃ out', Unstuffs rest out') ∨ HasBadEscape rest →
        (∃ out', Unstuffs (y ++ rest) out') ∨ HasBadEscape (y ++ rest) :=
    Or.imp (fun ⟨_, h⟩ => ⟨_, hy.append h⟩) (HasBadEscape.prepend hy)
  induction x using destuff.induct with
  | case1 => exact .inl ⟨[], .nil⟩
  | case2 => exact .inr hasBadEscape_dangling
  | case3 b hb => exact .inl ⟨[b], unstuffs_plain hb⟩
  | case4 f rest hf ih => exact after (unstuffs_pair ((escapeByte_reserved_iff f).1 hf)) ih
  | case5 f rest hf => exact .inr (hasBadEscape_malformed (mt (escapeByte_reserved_iff f).2 hf) rest)
  | case6 b f rest hb ih => exact after (unstuffs_plain hb) ih

/-- `InvalidEscape` has the two causes of rule R107 and no other. -/
theorem destuff_eq_err_iff (x : List Byte) : destuff x = .err .invalidEscape ↔ HasBadEscape x := by
  refine ⟨fun h => ?_, destuff_of_hasBadEscape⟩
  rcases unstuffs_or_hasBadEscape x with ⟨out, hx⟩ | hx
  · rw [destuff_of_unstuffs hx] at h; cases h
  · exact hx

/-! ### STUFF: its inverse and its length -/

/-- What STUFF emits for a byte is one whole symbol, and stands for that byte (rules R75, R102). -/
theorem unstuffs_stuffByte (b : Byte) : Unstuffs (stuffByte b) [b] := by
  by_cases hb : b ∈ Config.reserved
  · have hpair := unstuffs_pair ((escapeByte_escaped_iff b).2 hb)
    rw [escapeByte_escapeByte] at hpair
    rw [stuffByte_reserved hb]
    exact hpair
  · have hne : b ≠ Config.esc := fun h => hb (h ▸ esc_mem_reserved)
    rw [stuffByte_literal hb]
    exact unstuffs_plain hne

/-- STUFF's output is a sequence of whole symbols, and stands for its input. -/
theorem unstuffs_stuff (x : List Byte) : Unstuffs (stuff x) x := by
  induction x with
  | nil => exact .nil
  | cons b x ih => exact (unstuffs_stuffByte b).append ih

/-- The invariant of rule R109. -/
@[simp] theorem destuff_stuff (x : List Byte) : destuff (stuff x) = .ok x :=
  destuff_of_unstuffs (unstuffs_stuff x)

theorem stuff_injective : Function.Injective stuff := by
  intro x y h
  have hx := destuff_stuff x
  rw [h, destuff_stuff y] at hx
  cases hx; rfl

theorem stuff_eq_flatMap (x : List Byte) : stuff x = x.flatMap stuffByte := by
  induction x with
  | nil => rfl
  | cons b x ih => rw [stuff_cons, ih, List.flatMap_cons]

theorem stuffByte_length (b : Byte) : (stuffByte b).length = 1 + if b ∈ Config.reserved then 1 else 0 := by
  unfold stuffByte
  split <;> rfl

/-- The length law of rule R103: one byte more for each reserved byte. -/
theorem stuff_length (x : List Byte) : (stuff x).length = x.length + x.countP (fun b => b ∈ Config.reserved) := by
  induction x with
  | nil => rfl
  | cons b x ih =>
    rw [stuff_cons, List.length_append, stuffByte_length, ih, List.length_cons, List.countP_cons]
    simp only [decide_eq_true_eq]
    omega

/-- STUFF adds nothing exactly when no byte is reserved (rule R103). -/
theorem stuff_length_eq_iff (x : List Byte) : (stuff x).length = x.length ↔ ∀ b ∈ x, b ∉ Config.reserved := by
  rw [stuff_length, Nat.add_eq_left, List.countP_eq_zero]
  simp only [decide_eq_true_eq]

/-- STUFF doubles the length exactly when every byte is reserved (rule R103). -/
theorem stuff_length_eq_two_mul_iff (x : List Byte) :
    (stuff x).length = 2 * x.length ↔ ∀ b ∈ x, b ∈ Config.reserved := by
  rw [stuff_length, Nat.two_mul, Nat.add_left_cancel_iff, List.countP_eq_length]
  simp only [decide_eq_true_eq]

theorem exec_stuff_eq_iff {x out : List Byte} {s : State} :
    exec (.stuff x) s = .next { s with response := some (.bytes (.ok out)) } ↔ stuff x = out := by
  simp [exec_stuff]

theorem exec_destuff_eq_iff {x : List Byte} {r : Result (List Byte)} {s : State} :
    exec (.destuff x) s = .next { s with response := some (.bytes r) } ↔ destuff x = r := by
  simp [exec_destuff]

/-! ### The byte stuffer family -/

/-- Settles O20: STUFF's output is a sequence of whole symbols that stands for its input, and DESTUFF reads those. -/
theorem destuffUndoesStuff : Obligations.DestuffUndoesStuff := by
  unfold Obligations.DestuffUndoesStuff
  exact fun x s t => ⟨stuff x, exec_stuff x s, exec_destuff_eq_iff.2 (destuff_stuff x)⟩

/-- Settles O13: STUFF joins what it emits for each byte, and that is the escape exactly for the reserved bytes. -/
theorem stuffEscapesExactlyTheReservedBytes : Obligations.StuffEscapesExactlyTheReservedBytes := by
  unfold Obligations.StuffEscapesExactlyTheReservedBytes
  refine ⟨fun input => rfl, fun input s => exec_stuff_eq_iff.2 ?_⟩
  rw [stuff_eq_flatMap, funext stuffByte_eq]

/-- Settles O14: by the length law, whose count lies between none and all of the bytes. -/
theorem stuffLengthCountsTheReservedBytes : Obligations.StuffLengthCountsTheReservedBytes := by
  unfold Obligations.StuffLengthCountsTheReservedBytes
  intro x s
  have hlen := stuff_length x
  have hcount : x.countP (fun b => b ∈ Config.reserved) ≤ x.length := List.countP_le_length
  exact ⟨stuff x, exec_stuff x s, hlen, by omega, by omega, stuff_length_eq_iff x, stuff_length_eq_two_mul_iff x⟩

/-- Settles O16: an operation with a left inverse is injective; and an output is the stuffing of what DESTUFF reads in it,
which fails or gives another sequence for each of the four examples. -/
theorem stuffIsInjectiveAndNotSurjective : Obligations.StuffIsInjectiveAndNotSurjective := by
  unfold Obligations.StuffIsInjectiveAndNotSurjective
  refine ⟨fun x y s hne h => ?_, fun out hout x s h => ?_⟩
  · rw [exec_stuff y] at h
    exact hne (stuff_injective (exec_stuff_eq_iff.1 h))
  · have hstuff : stuff x = out := exec_stuff_eq_iff.1 h
    have hread : destuff out = .ok x := hstuff ▸ destuff_stuff x
    simp only [List.mem_cons, List.not_mem_nil, or_false] at hout
    rcases hout with rfl | rfl | rfl | rfl
    · cases hread; revert hstuff; decide
    · cases hread
    · cases hread
    · cases hread; revert hstuff; decide

/-- Settles O17: DESTUFF answers what whole symbols stand for; any other sequence has a bad escape. -/
theorem destuffReadsTheSymbolCode : Obligations.DestuffReadsTheSymbolCode := by
  unfold Obligations.DestuffReadsTheSymbolCode
  refine ⟨fun input => rfl, fun x out s h => exec_destuff_eq_iff.2 (destuff_of_unstuffs h), fun x s h => ?_⟩
  have hbad : HasBadEscape x := (unstuffs_or_hasBadEscape x).resolve_left (fun ⟨out, hx⟩ => h out hx)
  exact exec_destuff_eq_iff.2 (destuff_of_hasBadEscape hbad)

/-- Settles O18: `HasBadEscape` is rule R107's condition, and DESTUFF fails exactly on it. -/
theorem invalidEscapeHasExactlyTwoCauses : Obligations.InvalidEscapeHasExactlyTwoCauses := by
  unfold Obligations.InvalidEscapeHasExactlyTwoCauses
  exact fun x s => exec_destuff_eq_iff.trans (destuff_eq_err_iff x)

end Sys2Proof.Machine
end

section
/-! SUPPORT. The checksum engine's family (rules R121 to R129): the model's checksum in the words of the statements. -/

open Sys2Proof.Reference

namespace Sys2Proof.Machine

theorem byteSum_eq_sumOf (x : List Byte) : byteSum x = sumOf x := by
  induction x with
  | nil => rfl
  | cons b x ih =>
    rw [byteSum_cons, ih]
    rfl

/-- Less from `0xFF` is the complement: the sum modulo 256 is at most `0xFF` (rule R122). -/
theorem csumCompute_eq_not (x : List Byte) : csumCompute x = ~~~(BitVec.ofNat 8 (byteSum x)) := by
  apply BitVec.eq_of_toNat_eq
  rw [csumCompute_toNat, BitVec.toNat_not, BitVec.toNat_ofNat]

/-! ### The checksum engine family -/

/-- Settles O22: the byte delivered is the checksum, and the model's sum of the operand is the statement's. -/
theorem checksumComplementsTheSum : Obligations.ChecksumComplementsTheSum := by
  unfold Obligations.ChecksumComplementsTheSum
  refine ⟨fun fields => rfl, fun fields s => ⟨csumCompute fields, exec_csumCompute fields s, ?_⟩⟩
  rw [← byteSum_eq_sumOf]
  exact ⟨csumCompute_toNat fields, csumCompute_eq_not fields⟩

end Sys2Proof.Machine
end

section
/-! SUPPORT. The frame codec's family (rules R65, R146 to R155): what STUFF keeps off the wire, and DECODE on a body
whose unstuffed form is the ADU of a frame. -/

open Sys2Proof.Reference

namespace Sys2Proof.Machine

/-! ### What STUFF keeps off the wire -/

/-- The escape byte is the only reserved byte STUFF emits (rule R104). -/
theorem reserved_not_mem_stuffByte {r : Byte} (hr : r ∈ Config.reserved) (hne : r ≠ Config.esc) (b : Byte) :
    r ∉ stuffByte b := by
  have hdisjoint : ∀ f ∈ Config.escapedBytes, f ∉ Config.reserved := by decide
  by_cases hb : b ∈ Config.reserved
  · have hsecond : r ≠ escapeByte b := fun h => hdisjoint _ ((escapeByte_escaped_iff b).2 hb) (h ▸ hr)
    rw [stuffByte_reserved hb]
    simp [hne, hsecond]
  · rw [stuffByte_literal hb, List.mem_singleton]
    exact fun h => hb (h ▸ hr)

theorem reserved_not_mem_stuff {r : Byte} (hr : r ∈ Config.reserved) (hne : r ≠ Config.esc) (x : List Byte) :
    r ∉ stuff x := by
  rw [stuff_eq_flatMap, List.mem_flatMap]
  exact fun ⟨b, _, hb⟩ => reserved_not_mem_stuffByte hr hne b hb

theorem delim_not_mem_stuff (x : List Byte) : Config.delim ∉ stuff x :=
  reserved_not_mem_stuff (by decide) (by decide) x

/-! ### The ADU and its fields -/

theorem adu_eq_cons (a c : Byte) (d : List Byte) :
    adu a c d = a :: c :: BitVec.ofNat 8 d.length :: (d ++ [csumCompute (aduHeader a c d)]) := rfl

/-- The ADU of a frame verifies (rule R126). -/
@[simp] theorem csumVerify_adu (a c : Byte) (d : List Byte) : csumVerify (adu a c d) = true := by
  rw [adu, csumVerify_concat, beq_self_eq_true]

/-- A length byte that counts the data is the one the header holds (rule R63). -/
theorem aduHeader_eq_cons {a c len : Byte} {d : List Byte} (h : d.length = len.toNat) :
    aduHeader a c d = a :: c :: len :: d := by
  rw [aduHeader, h, BitVec.ofNat_toNat, BitVec.setWidth_eq]

/-- The checksum stands right after the data (rules R62, R68). -/
theorem adu_getElem?_checksum (a c : Byte) (d : List Byte) :
    (adu a c d)[3 + d.length]? = some (Frame.checksum ⟨a, c, d⟩) := by
  rw [adu, Nat.add_comm, ← aduHeader_length a c d, List.getElem?_concat_length]
  rfl

/-- A body whose length byte is right and which verifies is the ADU of the frame that stands in its fields (rules R68,
R150, R152). -/
theorem eq_adu_of_csumVerify {u : List Byte} {a c len : Byte} (ha : u[0]? = some a) (hc : u[1]? = some c)
    (hl : u[2]? = some len) (hlen : u.length = len.toNat + 4) (hv : csumVerify u = true) :
    u = adu a c ((u.drop 3).take len.toNat) ∧ ((u.drop 3).take len.toNat).length = len.toNat := by
  match u with
  | [] | [_] | [_, _] => cases hl
  | _ :: _ :: _ :: rest =>
    cases ha; cases hc; cases hl
    rcases List.eq_nil_or_concat' rest with rfl | ⟨d, ck, rfl⟩
    · simp at hlen
    have hd : d.length = len.toNat := by simpa using hlen
    have hck : csumCompute (aduHeader a c d) = ck := by
      rw [aduHeader_eq_cons hd]
      exact beq_iff_eq.1 ((csumVerify_concat (a :: c :: len :: d) ck).symm.trans hv)
    have hdata : ((a :: c :: len :: (d ++ [ck])).drop 3).take len.toNat = d := List.take_left' hd
    rw [hdata]
    exact ⟨by rw [adu, hck, aduHeader_eq_cons hd]; rfl, hd⟩

/-! ### DECODE past its stages -/

/-- Stages 3 to 6 read a frame back from its ADU (rule R153). -/
theorem decodeAdu_adu {a c : Byte} {d : List Byte} (h : d.length ≤ 255) : decodeAdu (adu a c d) = .ok ⟨a, c, d⟩ := by
  have hlen : (d ++ [csumCompute (aduHeader a c d)]).length = (BitVec.ofNat 8 d.length).toNat + 1 := by
    rw [lengthByte_toNat h, List.length_append, List.length_singleton]
  rw [adu_eq_cons, decodeAdu_cons, if_neg (by simp), decodeFields, if_neg (not_not.2 hlen), ← adu_eq_cons,
    csumVerify_adu, if_neg (by decide), aduData, lengthByte_toNat h, List.take_left]

/-- Between two delimiters, around whole symbols, DECODE is its stages on what the symbols stand for (rule R148). -/
theorem frameDecode_wireOf {body u : List Byte} (hbody : Config.delim ∉ body) (hu : Unstuffs body u) :
    frameDecode (wireOf body) = decodeAdu u := by
  rw [wireOf, frameDecode_wrapped hbody, decodeBody, destuff_of_unstuffs hu, andThen_ok]

/-- DECODE of whole symbols that stand for the ADU of a frame is that frame. -/
theorem frameDecode_wireOf_adu {body : List Byte} {a c : Byte} {d : List Byte} (hd : d.length ≤ 255)
    (hbody : Config.delim ∉ body) (hu : Unstuffs body (adu a c d)) : frameDecode (wireOf body) = .ok ⟨a, c, d⟩ :=
  (frameDecode_wireOf hbody hu).trans (decodeAdu_adu hd)

theorem exec_csumVerify_eq_iff {x : List Byte} {r : Bool} {s : State} :
    exec (.csumVerify x) s = .next { s with response := some (.bool (.ok r)) } ↔ csumVerify x = r := by
  simp [exec_csumVerify]

theorem exec_encode_eq_iff {a c : Byte} {d : List Byte} {r : Result (List Byte)} {s : State} :
    exec (.encode a c d) s = .next { s with response := some (.bytes r) } ↔ frameEncode a c d = r := by
  simp [exec_encode]

theorem exec_decode_eq_iff {w : List Byte} {r : Result Frame} {s : State} :
    exec (.decode w) s = .next { s with response := some (.frame r) } ↔ frameDecode w = r := by
  simp [exec_decode]

/-! ### The frame codec family -/

/-- Settles O33: ENCODE's body is delimiter-free whole symbols that stand for the ADU, and DECODE reads the frame from
those. -/
theorem decodeUndoesEncode : Obligations.DecodeUndoesEncode := by
  unfold Obligations.DecodeUndoesEncode
  intro a c d s t hd
  have hread : frameDecode (wireOf (stuff (adu a c d))) = .ok ⟨a, c, d⟩ :=
    frameDecode_wireOf_adu hd (delim_not_mem_stuff _) (unstuffs_stuff _)
  exact ⟨_, exec_encode_eq_iff.2 (frameEncode_short hd), exec_decode_eq_iff.2 hread⟩

/-- Settles O31: a body that passes every check is the ADU of the frame in its fields. -/
theorem decodeDeliversTheFieldsInPlace : Obligations.DecodeDeliversTheFieldsInPlace := by
  unfold Obligations.DecodeDeliversTheFieldsInPlace
  intro body u a c len s hbody hu ha hc hl hlen hv
  obtain ⟨hadu, hdata⟩ := eq_adu_of_csumVerify ha hc hl hlen (exec_csumVerify_eq_iff.1 hv)
  generalize (u.drop 3).take len.toNat = d at hadu hdata ⊢
  subst hadu
  have hd : d.length ≤ 255 := by omega
  exact ⟨exec_decode_eq_iff.2 (frameDecode_wireOf_adu hd hbody hu), hdata ▸ adu_getElem?_checksum a c d⟩

end Sys2Proof.Machine
end

section
/-! SUPPORT. The stream parser's family (rules R170 to R184): what one byte does at the parser, whether FEED or a wire
symbol brings it, and the rows of the transition table that these statements read. -/

namespace Sys2Proof.Machine

@[simp] theorem exec_feed (bytes : List Byte) (s : State) :
    exec (.feed bytes) s = .next { s with
      ps := (feedBytes s.maxBuf s.ps bytes).1
      response := some (.events (feedBytes s.maxBuf s.ps bytes).2) } := rfl

theorem exec_feed_singleton (b : Byte) (s : State) :
    exec (.feed [b]) s = .next { s with
      ps := (feed1 s.maxBuf s.ps b).1
      response := some (.events (feed1 s.maxBuf s.ps b).2) } := by
  rw [exec_feed, feedBytes_singleton]

/-- Whatever its class, a wire byte is presented to its unit as itself (rule R74). -/
theorem exec_decodeSym8 (port : Port) (b : Byte) (s : State) :
    exec (decodeSym8 port b) s = presentSymbol port b s := by
  unfold decodeSym8
  split_ifs with hdelim hesc hxon hxoff
  · rw [hdelim]; rfl
  · rw [hesc]; rfl
  · rw [hxon]; rfl
  · rw [hxoff]; rfl
  · rfl

/-- FEED of a byte and the wire symbol of that byte at the parser both do what FEED1 does (rules R18, R85). -/
theorem exec_eq_of_feed1_eq {s : State} {b : Byte} {i : Instr} {ps : ParserState} {events : List Event}
    (hi : i = .feed [b] ∨ decode (.sym8 .parser b) = .ok i) (h : feed1 s.maxBuf s.ps b = (ps, events)) :
    exec i s = .next { s with ps := ps, response := some (.events events) } := by
  have hfeed : exec i s = exec (.feed [b]) s := by
    rcases hi with rfl | hi
    · rfl
    · cases hi
      exact (exec_decodeSym8 .parser b s).trans (presentSymbol_parser b s)
  rw [hfeed, exec_feed_singleton, h]

/-- The wire symbol DELIM is the symbol of the delimiter byte (rule R74). -/
theorem delim_at_parser {i : Instr} (hi : i = .feed [Config.delim] ∨ i = .delim .parser) :
    i = .feed [Config.delim] ∨ decode (.sym8 .parser Config.delim) = .ok i :=
  hi.imp_right fun h => by rw [h]; rfl

/-! ### Rows of the transition table (rule R188) -/

section
variable {maxBuf : Nat} {ps : ParserState} {b : Byte}

/-- Outside a span a byte other than the delimiter is dropped (rules R172, R184). -/
theorem feed1_discards (ht : ps.tag ≠ .accumulating) (hb : b ≠ Config.delim) : feed1 maxBuf ps b = (ps, []) := by
  unfold feed1
  split
  case h_1 => exact if_neg hb
  case h_2 htag => exact absurd htag ht
  case h_3 => exact if_neg hb

/-- Outside a span the delimiter starts one (rules R174, R186). -/
theorem feed1_starts_span (ht : ps.tag ≠ .accumulating) :
    feed1 maxBuf ps Config.delim = (⟨.accumulating, []⟩, []) := by
  unfold feed1
  split
  case h_1 => exact if_pos rfl
  case h_2 htag => exact absurd htag ht
  case h_3 => exact if_pos rfl

/-- Within a span, below `MAX_BUF`, a byte other than the delimiter is stored (rule R180). -/
theorem feed1_stores (ht : ps.tag = .accumulating) (hb : b ≠ Config.delim) (hl : ps.buf.length < maxBuf) :
    feed1 maxBuf ps b = ({ ps with buf := ps.buf.store b }, []) := by
  simp only [feed1, ht, if_neg hb, if_pos hl]

end

/-! ### The stream parser family -/

/-- Settles O39: FEED1 stores the byte, and an append makes one new cell at the end. -/
theorem ordinaryBytesAreAppended : Obligations.OrdinaryBytesAreAppended := by
  unfold Obligations.OrdinaryBytesAreAppended
  exact fun s b i hi ht hb hl =>
    ⟨s.ps.buf.store b, exec_eq_of_feed1_eq hi (feed1_stores ht hb hl), rfl, readByte_store s.ps.buf b⟩

/-- Settles O35: `Idle` is outside a span, where FEED1 discards. -/
theorem idleDropsNoise : Obligations.IdleDropsNoise := by
  unfold Obligations.IdleDropsNoise
  intro s b i hi ht hb
  have hout : s.ps.tag ≠ .accumulating := by rw [ht]; decide
  exact exec_eq_of_feed1_eq hi (feed1_discards hout hb)

/-- Settles O36: `Idle` is outside a span, where FEED1 starts one on the delimiter, the byte of the symbol DELIM. -/
theorem delimiterInIdleStartsASpan : Obligations.DelimiterInIdleStartsASpan := by
  unfold Obligations.DelimiterInIdleStartsASpan
  intro s i hi ht
  have hout : s.ps.tag ≠ .accumulating := by rw [ht]; decide
  exact exec_eq_of_feed1_eq (delim_at_parser hi) (feed1_starts_span hout)

/-- Settles O41: `Error` is outside a span, where FEED1 discards. -/
theorem errorDropsBytes : Obligations.ErrorDropsBytes := by
  unfold Obligations.ErrorDropsBytes
  intro s b i hi ht hb
  have hout : s.ps.tag ≠ .accumulating := by rw [ht]; decide
  exact exec_eq_of_feed1_eq hi (feed1_discards hout hb)

/-- Settles O43: FEED of nothing changes nothing, and FEED of a first byte and the rest is FEED1 and then FEED of the rest
at the ParserState FEED1 left. -/
theorem feedFoldsTheOneByteStep : Obligations.FeedFoldsTheOneByteStep := by
  unfold Obligations.FeedFoldsTheOneByteStep
  refine ⟨?select, ?nil, ?cons⟩
  case select => exact fun bytes => rfl
  case nil => exact fun s => by rw [exec_feed, feedBytes_nil]
  case cons =>
    intro s b rest
    refine ⟨_, _, _, _, exec_feed_singleton b s, exec_feed rest _, ?_⟩
    rw [exec_feed, feedBytes_cons]

end Sys2Proof.Machine
end

section
/-! SUPPORT. The exceptions' family (rules R200 to R216): whatever an instruction is, it completes. Said once for every
instruction, in the strength later proofs can use: it writes ParserState and the delivered result, and nothing else. -/

namespace Sys2Proof.Machine

/-- A wire symbol completes at every unit: the parser steps, STUFF and DESTUFF only answer (rule R74). -/
theorem presentSymbol_completes (port : Port) (b : Byte) (s : State) :
    ∃ ps r, presentSymbol port b s = .next ((s.setParser ps).respond r) := by
  cases port with
  | parser => exact ⟨(feed1 s.maxBuf s.ps b).1, _, rfl⟩
  | stuffer | destuffer => exact ⟨s.ps, _, rfl⟩

/-- Every instruction completes in every state: it writes ParserState, delivers a result, and touches nothing else. -/
theorem exec_completes (i : Instr) (s : State) : ∃ ps r, exec i s = .next ((s.setParser ps).respond r) := by
  cases i with
  | stuff | destuff | csumCompute | csumVerify | encode | decode => exact ⟨s.ps, _, rfl⟩
  | feed bytes => exact ⟨_, _, exec_feed bytes s⟩
  | preset => exact ⟨s.ps.toIdle, .done, rfl⟩
  | delim port | esc port | xon port | xoff port | lit port => exact presentSymbol_completes port _ s
  | escDelim | escEsc | escXon | escXoff | escBad => exact ⟨s.ps, _, rfl⟩

/-! ### The exceptions family -/

/-- Settles O8: what every instruction does is a next state, and a step has no fault to answer, `Fault` being empty. -/
theorem noInstructionEverStopsTheBlock : Obligations.NoInstructionEverStopsTheBlock := by
  unfold Obligations.NoInstructionEverStopsTheBlock
  refine ⟨fun i s => ?completes, fun _ f => nomatch f⟩
  case completes =>
    obtain ⟨ps, r, h⟩ := exec_completes i s
    exact ⟨_, h⟩

end Sys2Proof.Machine
end

section
/-! SUPPORT. The decoder's family (rules R72 to R82): a request that decodes is the encoding of its instruction, so that
what holds of every encoding holds of every request that decodes; and the rows of the table. -/

namespace Sys2Proof

/-- An operation that decodes is its instruction's encoding, select code by select code (rules R72, R73). -/
theorem encode_of_decodeOp {select : BitVec 3} {operand : List Byte} {i : Instr}
    (h : decodeOp select operand = .ok i) : encode i = .op select operand ∧ i.wellFormed = true := by
  obtain ⟨code⟩ := select
  unfold decodeOp at h
  split at h
  case h_5 hcode =>
    cases hcode
    split at h <;> cases h
    exact ⟨rfl, rfl⟩
  case h_8 hcode =>
    cases hcode
    split at h <;> cases h
    exact ⟨rfl, rfl⟩
  all_goals
    rename_i hcode
    cases hcode; cases h
    exact ⟨rfl, rfl⟩

/-- Every wire byte is the encoding of the symbol it decodes to (rule R74). -/
theorem encode_decodeSym8 (port : Port) (b : Byte) :
    encode (decodeSym8 port b) = .sym8 port b ∧ (decodeSym8 port b).wellFormed = true := by
  unfold decodeSym8
  split_ifs with hdelim hesc hxon hxoff
  · exact ⟨hdelim ▸ rfl, rfl⟩
  · exact ⟨hesc ▸ rfl, rfl⟩
  · exact ⟨hxon ▸ rfl, rfl⟩
  · exact ⟨hxoff ▸ rfl, rfl⟩
  · exact ⟨rfl, by simp [Instr.wellFormed, hdelim, hesc, hxon, hxoff]⟩

/-- A pair that decodes is its instruction's encoding: its first byte is the escape byte, and its second says which (rule
R75). -/
theorem encode_of_decode_esc16 {pair : BitVec 16} {i : Instr} (h : decode (.esc16 pair) = .ok i) :
    encode i = .esc16 pair ∧ i.wellFormed = true := by
  rcases decode_esc16_cases pair with hpair | herr
  · generalize pair.extractLsb' 0 8 = second at hpair
    subst hpair
    rw [decode_pairWord] at h
    cases h
    split_ifs with hdelim hesc hxon hxoff
    · exact ⟨hdelim ▸ rfl, rfl⟩
    · exact ⟨hesc ▸ rfl, rfl⟩
    · exact ⟨hxon ▸ rfl, rfl⟩
    · exact ⟨hxoff ▸ rfl, rfl⟩
    · exact ⟨rfl, by simp [Instr.wellFormed, hdelim, hesc, hxon, hxoff]⟩
  · rw [herr] at h; cases h

/-- A request that decodes is the encoding of the instruction it names, and that is well formed. -/
theorem encode_of_decode {r : Request} {i : Instr} (h : decode r = .ok i) : encode i = r ∧ i.wellFormed = true := by
  cases r with
  | op select operand => exact encode_of_decodeOp h
  | sym8 port b => cases h; exact encode_decodeSym8 port b
  | esc16 pair => exact encode_of_decode_esc16 h

/-- A well-formed instruction is decoded from its own encoding: the family RoundTrip, for every constructor. -/
theorem decode_encode (i : Instr) : i.wellFormed = true → decode (encode i) = .ok i := by
  cases i with
  | stuff input => exact Laws.RoundTrip.stuff input
  | destuff input => exact Laws.RoundTrip.destuff input
  | csumCompute fields => exact Laws.RoundTrip.csumCompute fields
  | csumVerify fieldsCk => exact Laws.RoundTrip.csumVerify fieldsCk
  | encode address command data => exact Laws.RoundTrip.encode address command data
  | decode wireBytes => exact Laws.RoundTrip.decode wireBytes
  | feed bytes => exact Laws.RoundTrip.feed bytes
  | preset => exact Laws.RoundTrip.preset
  | delim port => exact Laws.RoundTrip.delim port
  | esc port => exact Laws.RoundTrip.esc port
  | xon port => exact Laws.RoundTrip.xon port
  | xoff port => exact Laws.RoundTrip.xoff port
  | lit port byte => exact Laws.RoundTrip.lit port byte
  | escDelim => exact Laws.RoundTrip.escDelim
  | escEsc => exact Laws.RoundTrip.escEsc
  | escXon => exact Laws.RoundTrip.escXon
  | escXoff => exact Laws.RoundTrip.escXoff
  | escBad second => exact Laws.RoundTrip.escBad second

/-! ### The rows of the table (rule R82) -/

/-- The row of a byte that is no reserved byte is LIT's. -/
theorem bestRow_lit (b : Byte) (h : b ∉ Config.reserved) :
    (bestRow sym8Rows b.toNat).map TableRow.mnemonic = some "LIT" := by
  revert b; decide +kernel

/-- The row of a pair with none of the four second bytes is ESC.BAD's. -/
theorem bestRow_escBad (f : Byte) (h : f ∉ Config.escapedBytes) :
    (bestRow esc16Rows (pairWord f).toNat).map TableRow.mnemonic = some "ESC.BAD" := by
  revert f; decide +kernel

/-- The row a request is decoded by: the most specific one of its format (rule R82). -/
def bestRowOf : Request → Option TableRow
  | .op select _ => bestRow opRows select.toNat
  | .sym8 _ b => bestRow sym8Rows b.toNat
  | .esc16 pair => bestRow esc16Rows pair.toNat

/-- The row of an instruction's encoding is the instruction's. -/
theorem bestRowOf_encode {i : Instr} (h : i.wellFormed = true) :
    (bestRowOf (encode i)).map TableRow.mnemonic = some i.mnemonic := by
  cases i with
  | lit port b => exact bestRow_lit b (of_decide_eq_true h)
  | escBad f => exact bestRow_escBad f (of_decide_eq_true h)
  | _ => rfl

/-- The decoder names the row with the most mask bits. -/
theorem bestRowOf_of_decode {r : Request} {i : Instr} (h : decode r = .ok i) :
    (bestRowOf r).map TableRow.mnemonic = some i.mnemonic := by
  obtain ⟨rfl, hwf⟩ := encode_of_decode h
  exact bestRowOf_encode hwf

/-- Every row of format ESC16 asks for the escape byte in bits 15..8. -/
theorem highByte_of_matchesWord {row : TableRow} {w : Nat} (hrow : row ∈ esc16Rows) (h : row.matchesWord w = true) :
    w >>> 8 &&& 0xFF = 0x7D := by
  have hrows : ∀ row ∈ esc16Rows, row.mask >>> 8 = 0xFF ∧ row.pattern >>> 8 = 0x7D := by decide
  obtain ⟨hmask, hpattern⟩ := hrows row hrow
  rw [← hmask, ← hpattern, ← Nat.shiftRight_and_distrib, beq_iff_eq.1 h]

/-- A pair whose first byte is not the escape byte matches no row. -/
theorem bestRow_esc16_eq_none {pair : BitVec 16} (h : pair.extractLsb' 8 8 ≠ Config.esc) :
    bestRow esc16Rows pair.toNat = none := by
  have hnone : esc16Rows.filter (·.matchesWord pair.toNat) = [] := by
    refine List.filter_eq_nil_iff.2 fun row hrow hmatch => h (BitVec.eq_of_toNat_eq ?_)
    have hhigh := highByte_of_matchesWord hrow hmatch
    rw [show (0xFF : Nat) = 2 ^ 8 - 1 from rfl, Nat.and_two_pow_sub_one_eq_mod] at hhigh
    rw [BitVec.extractLsb'_toNat, hhigh]
    rfl
  rw [bestRow, hnone]
  rfl

/-! ### The decoder's statements -/

/-- Settles O2: the family RoundTrip, and its converse format by format. -/
theorem decodeAndEncodeAgree : Obligations.DecodeAndEncodeAgree := by
  unfold Obligations.DecodeAndEncodeAgree
  exact ⟨decode_encode, fun r i => encode_of_decode⟩

/-- Settles O4: a request that decodes is an encoding, whose row is its instruction's; and a pair is rejected when its
first byte is not the escape byte, which every row asks for. -/
theorem decoderPicksTheMostSpecificRow : Obligations.DecoderPicksTheMostSpecificRow := by
  unfold Obligations.DecoderPicksTheMostSpecificRow
  refine ⟨?op, ?sym8, ?esc16, ?rejects⟩
  case op => exact fun select operand i h => bestRowOf_of_decode h
  case sym8 => exact fun port b => ⟨_, decode_sym8 port b, bestRowOf_of_decode (decode_sym8 port b)⟩
  case esc16 => exact fun pair i h => bestRowOf_of_decode h
  case rejects =>
    intro pair
    by_cases hfirst : pair.extractLsb' 8 8 = Config.esc
    · have hok : ∃ i, decode (.esc16 pair) = .ok i := ⟨_, if_pos hfirst⟩
      obtain ⟨i, hi⟩ := hok
      have hrow : (bestRow esc16Rows pair.toNat).map TableRow.mnemonic = some i.mnemonic := bestRowOf_of_decode hi
      rw [hi]
      refine iff_of_false (by simp) fun hnone => ?_
      rw [hnone] at hrow
      cases hrow
    · exact iff_of_true (if_neg hfirst) (bestRow_esc16_eq_none hfirst)

/-- Settles O3: each word is evaluated. -/
theorem tableWordsDecodeToTheirRows : Obligations.TableWordsDecodeToTheirRows := by
  unfold Obligations.TableWordsDecodeToTheirRows
  decide

end Sys2Proof
end

section
/-! SUPPORT. The byte stuffer's further statements (rules R74 to R78, R104 to R110): what an input of whole symbols holds,
and lone symbols and pairs at STUFF and DESTUFF. -/

open Sys2Proof.Reference

namespace Sys2Proof.Reference

/-- A sequence without the escape byte is one of whole symbols, and stands for itself (rule R108). -/
theorem unstuffs_self {x : List Byte} (h : 0x7D#8 ∉ x) : Unstuffs x x := by
  induction x with
  | nil => exact .nil
  | cons b x ih =>
    obtain ⟨hb, hx⟩ := not_or.1 (mt List.mem_cons.2 h)
    exact .plain (Ne.symm hb) (ih hx)

/-- No second byte of the escape map is the escape byte (rule R76). -/
theorem second_ne_escape {r f : Byte}
    (h : (r, f) ∈ [(0x7E#8, 0x5E#8), (0x7D#8, 0x5D#8), (0x11#8, 0x31#8), (0x13#8, 0x33#8)]) : f ≠ 0x7D#8 := by
  rintro rfl
  exact absurd ((Machine.mem_escapeMap_iff _ _).1 h).1 (by decide)

/-- Each escape pair, which holds one escape byte, stands for one byte less (rule R110). -/
theorem Unstuffs.length_add_count {x out : List Byte} (h : Unstuffs x out) :
    out.length + x.count 0x7D#8 = x.length := by
  induction h with
  | nil => rfl
  | plain hb _ ih =>
    rw [List.count_cons_of_ne hb, List.length_cons, List.length_cons]
    omega
  | pair hf _ ih =>
    rw [List.count_cons_self, List.count_cons_of_ne (second_ne_escape hf)]
    simp only [List.length_cons]
    omega

/-- A symbol has one byte or two. -/
theorem Unstuffs.length_le_two_mul {x out : List Byte} (h : Unstuffs x out) : x.length ≤ 2 * out.length := by
  induction h with
  | nil => rfl
  | plain _ _ ih | pair _ _ ih =>
    simp only [List.length_cons]
    omega

/-- In a sequence of whole symbols a valid second byte follows every escape byte. -/
theorem Unstuffs.escape_is_followed {x out : List Byte} (h : Unstuffs x out) :
    ∀ j, x[j]? = some 0x7D#8 → ∃ f ∈ [0x5E#8, 0x5D#8, 0x31#8, 0x33#8], x[j + 1]? = some f := by
  induction h with
  | nil => intro j hj; simp at hj
  | plain hb _ ih =>
    intro j hj
    cases j with
    | zero => exact absurd (Option.some.inj hj) hb
    | succ j => exact ih j hj
  | pair hf _ ih =>
    intro j hj
    match j with
    | 0 => exact ⟨_, ((Machine.mem_escapeMap_iff _ _).1 hf).1, rfl⟩
    | 1 => exact absurd (Option.some.inj hj) (second_ne_escape hf)
    | j + 2 => exact ih j hj

/-- No sequence of whole symbols ends in an escape byte. -/
theorem Unstuffs.getLast?_ne_escape {x out : List Byte} (h : Unstuffs x out) : x.getLast? ≠ some 0x7D#8 := by
  intro hlast
  rw [List.getLast?_eq_getElem?] at hlast
  obtain ⟨f, -, hnext⟩ := h.escape_is_followed _ hlast
  have hin := (List.getElem?_eq_some_iff.1 hnext).1
  omega

end Sys2Proof.Reference

namespace Sys2Proof.Machine

/-- DESTUFF succeeds exactly on the sequences of whole symbols (rule R106). -/
theorem destuff_eq_ok_iff {x out : List Byte} : destuff x = .ok out ↔ Unstuffs x out := by
  refine ⟨fun h => ?_, destuff_of_unstuffs⟩
  rcases unstuffs_or_hasBadEscape x with ⟨out', hx⟩ | hx
  · rw [destuff_of_unstuffs hx] at h
    cases h
    exact hx
  · rw [destuff_of_hasBadEscape hx] at h
    cases h

/-- A reserved byte is stuffed to the pair of the escape map (rules R75, R102). -/
theorem stuff_singleton_reserved {b : Byte} (h : b ∈ Config.reserved) : stuff [b] = [Config.esc, b ^^^ 0x20#8] := by
  rw [stuff_cons, stuff_nil, List.append_nil, stuffByte_reserved h]
  rfl

/-- An escape flips bit 5 and no other (rule R75). -/
theorem getLsbD_xor_escXor (b : Byte) (k : Nat) :
    (b ^^^ 0x20#8).getLsbD k = if k = 5 then !b.getLsbD k else b.getLsbD k := by
  have hbit : (0x20#8).getLsbD k = decide (k = 5) :=
    (BitVec.getLsbD_twoPow (w := 8) 5 k).trans (by simp [eq_comm])
  rw [BitVec.getLsbD_xor, hbit]
  by_cases hk : k = 5
  · rw [if_pos hk, decide_eq_true hk, Bool.xor_true]
  · rw [if_neg hk, decide_eq_false hk, Bool.xor_false]

/-! ### The byte stuffer's statements -/

/-- Settles O15: STUFF emits no reserved byte but the escape byte, and its output is one of whole symbols. -/
theorem stuffOutputHoldsNoBareReservedByte : Obligations.StuffOutputHoldsNoBareReservedByte := by
  unfold Obligations.StuffOutputHoldsNoBareReservedByte
  intro x s
  have hsymbols : Unstuffs (stuff x) x := unstuffs_stuff x
  exact ⟨stuff x, exec_stuff x s, delim_not_mem_stuff x, reserved_not_mem_stuff (by decide) (by decide) x,
    reserved_not_mem_stuff (by decide) (by decide) x, hsymbols.escape_is_followed, hsymbols.getLast?_ne_escape,
    x, exec_destuff_eq_iff.2 (destuff_stuff x)⟩

/-- Settles O19: without an escape byte the input is whole symbols that stand for themselves; and the symbol `0x11` and the
pair `0x7D 0x31` stand for the same byte. -/
theorem destuffPassesRawReservedBytes : Obligations.DestuffPassesRawReservedBytes := by
  unfold Obligations.DestuffPassesRawReservedBytes
  exact ⟨fun x s h => exec_destuff_eq_iff.2 (destuff_of_unstuffs (unstuffs_self h)), fun s => rfl⟩

/-- Settles O21: DESTUFF succeeds on whole symbols only, and those have the length law. -/
theorem destuffLengthDropsOneBytePerPair : Obligations.DestuffLengthDropsOneBytePerPair := by
  unfold Obligations.DestuffLengthDropsOneBytePerPair
  intro x out s h
  have hsymbols : Unstuffs x out := destuff_eq_ok_iff.1 (exec_destuff_eq_iff.1 h)
  have hlen := hsymbols.length_add_count
  exact ⟨hlen, hsymbols.length_le_two_mul, by omega⟩

/-! ### Lone symbols and pairs -/

/-- Settles O56: a symbol at STUFF's input is stuffed as that one byte. -/
theorem symbolsAtTheStuffer : Obligations.SymbolsAtTheStuffer := by
  unfold Obligations.SymbolsAtTheStuffer
  refine fun s => ⟨rfl, rfl, rfl, rfl, fun b hb => ?literal⟩
  case literal =>
    have hlit : exec (.lit .stuffer b) s = .next { s with response := some (.bytes (.ok (stuffByte b))) } := rfl
    rw [hlit, stuffByte_literal hb]

/-- Settles O57: a symbol at DESTUFF's input is destuffed as that one byte, which only an escape byte fails. -/
theorem symbolsAtTheDestuffer : Obligations.SymbolsAtTheDestuffer := by
  unfold Obligations.SymbolsAtTheDestuffer
  refine fun s => ⟨rfl, rfl, rfl, rfl, fun b hb => ?literal⟩
  case literal =>
    have hlit : exec (.lit .destuffer b) s = .next { s with response := some (.bytes (destuff [b])) } := rfl
    have hne : b ≠ Config.esc := fun h => hb (h ▸ esc_mem_reserved)
    rw [hlit, destuff_of_unstuffs (unstuffs_plain hne)]

/-- Settles O58: the four rows are evaluated; STUFF's pair has the arithmetic form for every reserved byte, and that form
flips bit 5. -/
theorem escapePairsFollowTheEscapeMap : Obligations.EscapePairsFollowTheEscapeMap := by
  unfold Obligations.EscapePairsFollowTheEscapeMap
  refine fun s => ⟨⟨rfl, rfl, rfl⟩, ⟨rfl, rfl, rfl⟩, ⟨rfl, rfl, rfl⟩, ⟨rfl, rfl, rfl⟩, ?stuffed, getLsbD_xor_escXor⟩
  case stuffed => exact fun b hb => exec_stuff_eq_iff.2 (stuff_singleton_reserved hb)

/-- Settles O59: such a pair is ESC.BAD's encoding, and DESTUFF of its two bytes is malformed. -/
theorem malformedPairsAreRejected : Obligations.MalformedPairsAreRejected := by
  unfold Obligations.MalformedPairsAreRejected
  intro f s hf
  have hexec : exec (.escBad f) s = exec (.destuff [Config.esc, f]) s := rfl
  refine ⟨Laws.RoundTrip.escBad f (decide_eq_true hf), hexec.trans (exec_destuff_eq_iff.2 ?_)⟩
  exact destuff_malformed hf []

end Sys2Proof.Machine
end

section
/-! SUPPORT. The checksum engine's further statements (rules R122 to R129): the 8-bit accumulator, the test on the total
sum, and single-bit sensitivity. -/

open Sys2Proof.Reference

namespace Sys2Proof.Machine

/-- The model's checksum is the statements' (rule R121). -/
theorem csumCompute_eq_checksumOf (x : List Byte) : csumCompute x = checksumOf x := by
  rw [csumCompute, byteSum_eq_sumOf]
  rfl

/-- An accumulator that discards carries holds the sum modulo 256 (rule R122). -/
theorem foldl_add_eq_byteSum (x : List Byte) (acc : Byte) :
    x.foldl (fun acc b => acc + b) acc = acc + BitVec.ofNat 8 (byteSum x) := by
  induction x generalizing acc with
  | nil => simp
  | cons b x ih =>
    rw [List.foldl_cons, ih, byteSum_cons, BitVec.ofNat_add, BitVec.ofNat_toNat, BitVec.setWidth_eq, BitVec.add_assoc]

theorem csumCompute_eq_not_foldl (x : List Byte) : csumCompute x = ~~~(x.foldl (fun acc b => acc + b) 0x00#8) := by
  rw [csumCompute_eq_not, foldl_add_eq_byteSum, BitVec.zero_add]

/-- The checksum depends on the bytes through their sum alone. -/
theorem csumCompute_congr {x y : List Byte} (h : byteSum x = byteSum y) : csumCompute x = csumCompute y := by
  rw [csumCompute, h]
  rfl

theorem byteSum_perm {x y : List Byte} (h : x.Perm y) : byteSum x = byteSum y := (h.map BitVec.toNat).sum_eq

/-- Bytes `0x00` add nothing (rule R124). -/
theorem byteSum_filter_ne_zero (x : List Byte) : byteSum (x.filter (fun b => b ≠ 0x00#8)) = byteSum x := by
  induction x with
  | nil => rfl
  | cons b x ih =>
    by_cases hb : b = 0x00#8
    · rw [List.filter_cons_of_neg (by simpa using hb), ih, byteSum_cons, hb]
      exact (Nat.zero_add _).symm
    · rw [List.filter_cons_of_pos (by simpa using hb), byteSum_cons, byteSum_cons, ih]

/-! ### CSUM.VERIFY -/

/-- The test on the total sum: the checksum is what is missing to `0xFF` (rule R128). -/
theorem csumVerify_eq_true_iff {x : List Byte} (h : x ≠ []) : csumVerify x = true ↔ byteSum x % 256 = 255 := by
  obtain ⟨fields, c, rfl⟩ := (List.eq_nil_or_concat' x).resolve_left h
  have hsum : byteSum (fields ++ [c]) = byteSum fields + c.toNat := by simp
  rw [csumVerify_concat, beq_iff_eq, ← BitVec.toNat_inj, csumCompute_toNat, hsum]
  have hc : c.toNat < 256 := c.isLt
  omega

/-- Inverting a bit changes the byte. -/
theorem flip_ne {k : Nat} (hk : k < 8) (b : Byte) : b ^^^ (0x01#8 <<< k) ≠ b := by
  have hmask : ∀ k < 8, 0x01#8 <<< k ≠ 0x00#8 := by decide
  exact fun h => hmask k hk ((BitVec.xor_right_inj b).1 (h.trans BitVec.xor_zero.symm))

/-- Bytes that verify no longer do when one of them becomes another (rule R129). -/
theorem csumVerify_change {before after : List Byte} {b b' : Byte} (hne : b' ≠ b)
    (h : csumVerify (before ++ b :: after) = true) : csumVerify (before ++ b' :: after) = false := by
  rw [csumVerify_eq_true_iff (by simp), byteSum_append, byteSum_cons] at h
  rw [Bool.eq_false_iff, Ne, csumVerify_eq_true_iff (by simp), byteSum_append, byteSum_cons]
  have hnat : b'.toNat ≠ b.toNat := mt BitVec.eq_of_toNat_eq hne
  have hb : b.toNat < 256 := b.isLt
  have hb' : b'.toNat < 256 := b'.isLt
  omega

/-! ### The checksum engine's statements -/

/-- Settles O23: the accumulator holds the sum modulo 256, its complement has the three forms, and the checksum depends on
the sum alone, which neither order nor zero bytes change. -/
theorem checksumAccumulatesByteByByteInAnyOrder : Obligations.ChecksumAccumulatesByteByByteInAnyOrder := by
  unfold Obligations.ChecksumAccumulatesByteByByteInAnyOrder
  intro fields s
  have hforms : ∀ acc : Byte, ~~~acc = 0xFF#8 - acc ∧ ~~~acc = acc ^^^ 0xFF#8 := by decide +kernel
  obtain ⟨hsub, hxor⟩ := hforms (fields.foldl (fun acc b => acc + b) 0x00#8)
  have hcsum := csumCompute_eq_not_foldl fields
  refine ⟨_, exec_csumCompute fields s, hcsum.trans hsub, hcsum, hcsum.trans hxor, fun others hperm => ?perm, ?zeros⟩
  case perm => rw [exec_csumCompute, csumCompute_congr (byteSum_perm hperm)]
  case zeros => rw [exec_csumCompute, csumCompute_congr (byteSum_filter_ne_zero fields)]

/-- Settles O24: by the equation of CSUM.VERIFY on a last byte. -/
theorem verifyComparesTheTrailingByte : Obligations.VerifyComparesTheTrailingByte := by
  unfold Obligations.VerifyComparesTheTrailingByte
  refine ⟨fun fields => rfl, fun fields c s => exec_csumVerify_eq_iff.2 ?_, fun s => rfl⟩
  rw [csumVerify_concat, csumCompute_eq_checksumOf]
  rfl

/-- Settles O25: by the test on the total sum, which a change of one byte by less than 256 upsets. -/
theorem verifyDetectsEverySingleBitFlip : Obligations.VerifyDetectsEverySingleBitFlip := by
  unfold Obligations.VerifyDetectsEverySingleBitFlip
  refine ⟨fun x s hx => exec_csumVerify_eq_iff.2 ?sum, fun before after b k s hk h => ?flip⟩
  case sum =>
    rw [Bool.eq_iff_iff, csumVerify_eq_true_iff hx, byteSum_eq_sumOf, decide_eq_true_eq]
  case flip =>
    exact exec_csumVerify_eq_iff.2 (csumVerify_change (flip_ne hk b) (exec_csumVerify_eq_iff.1 h))

end Sys2Proof.Machine
end

section
/-! SUPPORT. The frame codec's further statements (rules R65 to R67, R141 to R158): ENCODE and the wire form in the words of
the statements, stage 1 of DECODE, the stages on the unstuffed body by its indexes, and the frames DECODE accepts. -/

open Sys2Proof.Reference

namespace Sys2Proof.Machine

/-! ### ENCODE -/

/-- The model's ADU is the statements' (rule R62). -/
theorem aduOf_eq_adu (a c : Byte) (d : List Byte) : aduOf a c d = adu a c d := by
  rw [adu, csumCompute_eq_checksumOf]
  rfl

/-- The table form of the escape is what STUFF emits (rules R75, R112). -/
theorem escapeOf_eq_stuffByte : escapeOf = stuffByte := by
  funext b
  revert b
  decide +kernel

theorem flatMap_escapeOf (x : List Byte) : x.flatMap escapeOf = stuff x := by
  rw [stuff_eq_flatMap, escapeOf_eq_stuffByte]

@[simp] theorem adu_length (a c : Byte) (d : List Byte) : (adu a c d).length = d.length + 4 := by simp [adu]

/-- ENCODE wraps the stuffed ADU (rule R141). -/
theorem frameEncode_eq_wireOf {d : List Byte} (a c : Byte) (h : d.length ≤ 255) :
    frameEncode a c d = .ok (wireOf (stuff (adu a c d))) := frameEncode_short h

theorem wireOf_length (body : List Byte) : (wireOf body).length = body.length + 2 := by simp [wireOf]

/-- The length byte of 255 data bytes is not reserved, so not every byte of a longest ADU is (rule R67). -/
theorem reserved_in_longest_adu_lt (a c : Byte) {d : List Byte} (h : d.length = 255) :
    (adu a c d).countP (fun b => b ∈ Config.reserved) < (adu a c d).length := by
  have hlengthByte : BitVec.ofNat 8 255 ∈ adu a c d := by simp [adu_eq_cons, h]
  refine lt_of_le_of_ne List.countP_le_length fun hall => ?_
  exact absurd (List.countP_eq_length.1 hall _ hlengthByte) (by decide)

/-- The largest body (rules R66, R67). -/
theorem stuff_adu_length_le (a c : Byte) {d : List Byte} (h : d.length ≤ 255) : (stuff (adu a c d)).length ≤ 517 := by
  have hall : (adu a c d).countP (fun b => b ∈ Config.reserved) ≤ (adu a c d).length := List.countP_le_length
  have hlongest := reserved_in_longest_adu_lt a c (d := d)
  rw [stuff_length]
  rw [adu_length] at *
  omega

/-! ### Stage 1 of DECODE -/

/-- An input with two distinct delimiters at its ends is the wire form of what is between them. -/
theorem eq_wireOf_interior {w : List Byte} (hlen : 2 ≤ w.length) (hhead : w.head? = some Config.delim)
    (hlast : w.getLast? = some Config.delim) : w = wireOf ((w.drop 1).dropLast) := by
  match w with
  | [] | [_] => simp at hlen
  | first :: b :: rest =>
    rw [List.getLast?_cons_cons] at hlast
    cases hhead
    exact congrArg (Config.delim :: ·) (List.dropLast_append_getLast? _ hlast).symm

/-- What rule R146 asks of the ends, as stage 1 tests it. -/
def HasDelimiters (w : List Byte) : Prop :=
  ¬ (w.length < 2 ∨ w.head? ≠ some Config.delim ∨ w.getLast? ≠ some Config.delim)

theorem hasDelimiters_iff_ends {w : List Byte} :
    HasDelimiters w ↔ 2 ≤ w.length ∧ w.head? = some Config.delim ∧ w.getLast? = some Config.delim := by
  rw [HasDelimiters, not_or, not_or, not_lt, not_not, not_not]

theorem frameInterior_of_not_hasDelimiters {w : List Byte} (h : ¬ HasDelimiters w) :
    frameInterior w = .err .missingDelimiter := if_pos (not_not.1 h)

/-- The inputs with delimiters at their ends are the wire forms. -/
theorem hasDelimiters_iff_wireOf {w : List Byte} : HasDelimiters w ↔ ∃ body, w = wireOf body := by
  constructor
  · intro h
    obtain ⟨hlen, hhead, hlast⟩ := hasDelimiters_iff_ends.1 h
    exact ⟨_, eq_wireOf_interior hlen hhead hlast⟩
  · rintro ⟨body, rfl⟩
    have hlast : (wireOf body).getLast? = some Config.delim := List.getLast?_concat
    exact hasDelimiters_iff_ends.2 ⟨by simp [wireOf], rfl, hlast⟩

theorem frameInterior_wireOf (body : List Byte) :
    frameInterior (wireOf body) = if Config.delim ∈ body then .err .missingDelimiter else .ok body :=
  frameInterior_wrapped body

theorem wireOf_inj {body body' : List Byte} : wireOf body = wireOf body' ↔ body = body' := by simp [wireOf]

/-- Stage 1 answers the interior of a wire form without another delimiter, and nothing else (rule R146). -/
theorem frameInterior_eq_ok_iff {w body : List Byte} :
    frameInterior w = .ok body ↔ w = wireOf body ∧ Config.delim ∉ body := by
  by_cases hw : HasDelimiters w
  · obtain ⟨interior, rfl⟩ := hasDelimiters_iff_wireOf.1 hw
    rw [frameInterior_wireOf, wireOf_inj]
    split_ifs with hmem
    · exact iff_of_false nofun (by rintro ⟨rfl, h⟩; exact h hmem)
    · constructor
      · intro h; cases h; exact ⟨rfl, hmem⟩
      · rintro ⟨rfl, -⟩; rfl
  · rw [frameInterior_of_not_hasDelimiters hw]
    exact iff_of_false nofun fun ⟨h, _⟩ => hw (hasDelimiters_iff_wireOf.2 ⟨body, h⟩)

/-- Stages 2 to 6 never answer `MissingDelimiter`: a wire form lacks a delimiter when it holds another. -/
theorem frameDecode_wireOf_eq_missing_iff {body : List Byte} :
    frameDecode (wireOf body) = .err .missingDelimiter ↔ Config.delim ∈ body := by
  by_cases hmem : Config.delim ∈ body
  · refine iff_of_true ?_ hmem
    rw [frameDecode, frameInterior_wireOf, if_pos hmem]
    rfl
  · refine iff_of_false (fun h => ?_) hmem
    rw [wireOf, frameDecode_wrapped hmem] at h
    exact absurd (decodeBody_err h) (by decide)

/-- The interior of a wire form, by index. -/
theorem delim_mem_iff_getElem?_wireOf {body : List Byte} :
    Config.delim ∈ body ↔ ∃ i, 1 ≤ i ∧ i + 2 ≤ (wireOf body).length ∧ (wireOf body)[i]? = some Config.delim := by
  have hget : ∀ i < body.length, (wireOf body)[i + 1]? = body[i]? := fun i hi => by
    rw [wireOf, List.append_assoc, List.singleton_append, List.getElem?_cons_succ, List.getElem?_append_left hi]
  rw [List.mem_iff_getElem?, wireOf_length]
  constructor
  · rintro ⟨i, hi⟩
    have hlt := (List.getElem?_eq_some_iff.1 hi).1
    exact ⟨i + 1, by omega, by omega, (hget i hlt).trans hi⟩
  · rintro ⟨_, hpos, hlt, hi⟩
    obtain ⟨i, rfl⟩ := Nat.exists_eq_add_of_le' hpos
    exact ⟨i, (hget i (by omega)).symm.trans hi⟩

/-! ### The stages on the unstuffed body, by its indexes -/

/-- Everything stages 3 to 6 can do, with the length byte at its index (rules R149 to R153). -/
theorem decodeAdu_cases_getElem? (u : List Byte) :
    (u.length < 4 ∧ decodeAdu u = .err .frameTooShort) ∨
    (4 ≤ u.length ∧ ∃ len : Byte, u[2]? = some len ∧
      ((u.length - 3 ≠ len.toNat + 1 ∧ decodeAdu u = .err .lengthMismatch) ∨
       (u.length - 3 = len.toNat + 1 ∧ csumVerify u = false ∧ decodeAdu u = .err .checksumMismatch) ∨
       (u.length - 3 = len.toNat + 1 ∧ csumVerify u = true ∧ ∃ f, decodeAdu u = .ok f))) := by
  rcases decodeAdu_cases u with hshort | ⟨a, c, len, rest, rfl, hrest, hstage⟩
  · exact .inl hshort
  · have hpos : 0 < rest.length := List.length_pos_iff.2 hrest
    refine .inr ⟨by simp only [List.length_cons]; omega, len, rfl, ?_⟩
    have hcount : (a :: c :: len :: rest).length - 3 = rest.length := rfl
    rw [hcount]
    exact hstage.imp_right (Or.imp_right fun ⟨hlen, hv, hok⟩ => ⟨hlen, hv, _, hok⟩)

theorem decodeAdu_eq_frameTooShort_iff {u : List Byte} : decodeAdu u = .err .frameTooShort ↔ u.length < 4 := by
  rcases decodeAdu_cases_getElem? u with ⟨hshort, h⟩ | ⟨hlong, len, -, ⟨-, h⟩ | ⟨-, -, h⟩ | ⟨-, -, f, h⟩⟩
  · exact iff_of_true h hshort
  all_goals exact iff_of_false (h ▸ nofun) (by omega)

theorem decodeAdu_eq_lengthMismatch_iff {u : List Byte} :
    decodeAdu u = .err .lengthMismatch ↔
      4 ≤ u.length ∧ ∃ len : Byte, u[2]? = some len ∧ u.length - 3 ≠ len.toNat + 1 := by
  rcases decodeAdu_cases_getElem? u with
    ⟨hshort, h⟩ | ⟨hlong, len, hget, ⟨hlen, h⟩ | ⟨hlen, -, h⟩ | ⟨hlen, -, f, h⟩⟩
  · exact iff_of_false (h ▸ nofun) (by omega)
  · exact iff_of_true h ⟨hlong, len, hget, hlen⟩
  all_goals
    refine iff_of_false (h ▸ nofun) fun ⟨_, len', hget', hne⟩ => hne ?_
    rw [hget] at hget'
    cases hget'
    exact hlen

theorem decodeAdu_eq_checksumMismatch_iff {u : List Byte} :
    decodeAdu u = .err .checksumMismatch ↔
      4 ≤ u.length ∧ (∃ len : Byte, u[2]? = some len ∧ u.length - 3 = len.toNat + 1) ∧ csumVerify u = false := by
  rcases decodeAdu_cases_getElem? u with
    ⟨hshort, h⟩ | ⟨hlong, len, hget, ⟨hlen, h⟩ | ⟨hlen, hv, h⟩ | ⟨hlen, hv, f, h⟩⟩
  · exact iff_of_false (h ▸ nofun) (by omega)
  · refine iff_of_false (h ▸ nofun) fun ⟨_, ⟨len', hget', heq⟩, _⟩ => hlen ?_
    rw [hget] at hget'
    cases hget'
    exact heq
  · exact iff_of_true h ⟨hlong, ⟨len, hget, hlen⟩, hv⟩
  · exact iff_of_false (h ▸ nofun) fun ⟨_, _, hv'⟩ => absurd (hv.symm.trans hv') (by decide)

/-! ### The frames DECODE accepts -/

/-- Stages 3 to 6 succeed on the ADU of a frame of valid length and on nothing else (rules R152, R153). -/
theorem decodeAdu_eq_ok_iff {u : List Byte} {f : Frame} :
    decodeAdu u = .ok f ↔ f.data.length ≤ 255 ∧ u = adu f.address f.command f.data := by
  refine ⟨fun hok => ?_, fun ⟨hlen, hu⟩ => hu ▸ decodeAdu_adu hlen⟩
  rcases decodeAdu_cases u with ⟨-, h⟩ | ⟨a, c, len, rest, rfl, -, ⟨-, h⟩ | ⟨-, -, h⟩ | ⟨hlen, hv, h⟩⟩
  case inr.inr.inr =>
    obtain ⟨hadu, hdata⟩ := eq_adu_of_csumVerify rfl rfl rfl (by simpa using hlen) hv
    rw [h] at hok
    cases hok
    exact ⟨by have := len.isLt; exact hdata.trans_le (by omega), hadu⟩
  all_goals rw [h] at hok; cases hok

/-- DECODE succeeds on the wire forms of valid frames and on nothing else: stage by stage. -/
theorem frameDecode_eq_ok_iff {w : List Byte} {f : Frame} :
    frameDecode w = .ok f ↔ f.data.length ≤ 255 ∧ ∃ body, w = wireOf body ∧ Config.delim ∉ body ∧
      Unstuffs body (adu f.address f.command f.data) := by
  constructor
  · intro hok
    unfold frameDecode at hok
    cases hw : frameInterior w with
    | err e => rw [hw] at hok; cases hok
    | ok body =>
      obtain ⟨rfl, hmem⟩ := frameInterior_eq_ok_iff.1 hw
      rw [hw, andThen_ok, decodeBody] at hok
      cases hbody : destuff body with
      | err e => rw [hbody] at hok; cases hok
      | ok u =>
        rw [hbody, andThen_ok] at hok
        obtain ⟨hlen, rfl⟩ := decodeAdu_eq_ok_iff.1 hok
        exact ⟨hlen, body, rfl, hmem, destuff_eq_ok_iff.1 hbody⟩
  · rintro ⟨hlen, body, rfl, hmem, hbody⟩
    exact frameDecode_wireOf_adu hlen hmem hbody

/-- The errors of DECODE (rule R203). -/
theorem frameDecode_err {w : List Byte} {e : Error} (h : frameDecode w = .err e) : e ∈ decodeErrors := by
  unfold frameDecode at h
  cases hw : frameInterior w with
  | err e' =>
    rw [hw] at h
    cases h
    rw [frameInterior_err hw]
    decide
  | ok body =>
    rw [hw, andThen_ok] at h
    exact List.mem_cons_of_mem _ (decodeBody_err h)

/-! ### A flipped bit in an ADU -/

/-- A changed length byte no longer counts the data (conflict C4). -/
theorem decodeAdu_length_changed {a c b b' : Byte} {d before after : List Byte} (hd : d.length ≤ 255) (hne : b' ≠ b)
    (h : adu a c d = before ++ b :: after) (hat : before.length = 2) :
    decodeAdu (before ++ b' :: after) = .err .lengthMismatch := by
  have hlen : (before ++ b' :: after).length = d.length + 4 := by rw [← adu_length a c d, h]; simp
  have hget : ∀ x, (before ++ x :: after)[2]? = some x := fun x => by simp [← hat]
  have hb : b = BitVec.ofNat 8 d.length := by
    have hadu : (adu a c d)[2]? = some b := h ▸ hget b
    exact (Option.some.inj hadu).symm
  refine decodeAdu_eq_lengthMismatch_iff.2 ⟨by omega, b', hget b', fun hcount => hne ?_⟩
  have hnat : b'.toNat = b.toNat := by rw [hb, lengthByte_toNat hd]; omega
  exact BitVec.eq_of_toNat_eq hnat

/-- Any other changed byte leaves the count right and the sum wrong. -/
theorem decodeAdu_other_changed {a c b b' : Byte} {d before after : List Byte} (hd : d.length ≤ 255) (hne : b' ≠ b)
    (h : adu a c d = before ++ b :: after) (hat : before.length ≠ 2) :
    decodeAdu (before ++ b' :: after) = .err .checksumMismatch := by
  have hlen : (before ++ b' :: after).length = d.length + 4 := by rw [← adu_length a c d, h]; simp
  have hkept : (before ++ b' :: after)[2]? = (before ++ b :: after)[2]? := by
    rw [List.getElem?_append, List.getElem?_append]
    split
    · rfl
    · obtain ⟨k, hk⟩ : ∃ k, 2 - before.length = k + 1 := ⟨1 - before.length, by omega⟩
      rw [hk]
      rfl
  have hget : (before ++ b' :: after)[2]? = some (BitVec.ofNat 8 d.length) := by rw [hkept, ← h]; rfl
  refine decodeAdu_eq_checksumMismatch_iff.2 ⟨by omega, ⟨_, hget, ?_⟩, ?_⟩
  · rw [lengthByte_toNat hd]
    omega
  · exact csumVerify_change hne (h ▸ csumVerify_adu a c d)

/-! ### The frame codec's statements -/

/-- Settles O32: by the characterisation of DECODE's success. -/
theorem decodeAcceptsExactlyTheValidFrames : Obligations.DecodeAcceptsExactlyTheValidFrames := by
  unfold Obligations.DecodeAcceptsExactlyTheValidFrames
  intro w f s
  rw [exec_decode_eq_iff, frameDecode_eq_ok_iff, aduOf_eq_adu]

/-- Settles O26: by the two laws of ENCODE. -/
theorem encodeBuildsTheWireFrame : Obligations.EncodeBuildsTheWireFrame := by
  unfold Obligations.EncodeBuildsTheWireFrame
  refine ⟨fun a c d => rfl, fun a c d s hd => exec_encode_eq_iff.2 ?_, fun a c d s hd =>
    exec_encode_eq_iff.2 (frameEncode_long hd)⟩
  rw [aduOf_eq_adu, flatMap_escapeOf]
  exact frameEncode_eq_wireOf a c hd

/-- Settles O27: the body is the stuffed ADU, with STUFF's length law and the bound on a longest ADU. -/
theorem encodedFramesHaveTheStatedShape : Obligations.EncodedFramesHaveTheStatedShape := by
  unfold Obligations.EncodedFramesHaveTheStatedShape
  intro a c d s hd
  have hlen : (stuff (adu a c d)).length = d.length + 4 + (adu a c d).countP (fun b => b ∈ Config.reserved) := by
    rw [stuff_length, adu_length]
  have hmost := stuff_adu_length_le a c hd
  refine ⟨_, exec_encode_eq_iff.2 (frameEncode_eq_wireOf a c hd), delim_not_mem_stuff _,
    reserved_not_mem_stuff (by decide) (by decide) _, reserved_not_mem_stuff (by decide) (by decide) _, ?_⟩
  rw [wireOf_length, aduOf_eq_adu]
  omega

/-- Settles O28: without delimiters at both ends stage 1 fails; between them exactly another delimiter does. -/
theorem missingDelimiterExactlyWithoutBothDelimiters : Obligations.MissingDelimiterExactlyWithoutBothDelimiters := by
  unfold Obligations.MissingDelimiterExactlyWithoutBothDelimiters
  refine ⟨fun w => rfl, fun w s => ?_⟩
  rw [exec_decode_eq_iff, ← List.head?_eq_getElem?, ← List.getLast?_eq_getElem?]
  by_cases hends : HasDelimiters w
  · obtain ⟨hlen, hhead, hlast⟩ := hasDelimiters_iff_ends.1 hends
    rw [or_iff_right (not_lt.2 hlen), or_iff_right (not_not.2 hhead), or_iff_right (not_not.2 hlast)]
    obtain ⟨body, rfl⟩ := hasDelimiters_iff_wireOf.1 hends
    exact frameDecode_wireOf_eq_missing_iff.trans delim_mem_iff_getElem?_wireOf
  · refine iff_of_true ?_ ((not_not.1 hends).imp_right (Or.imp_right .inl))
    rw [frameDecode, frameInterior_of_not_hasDelimiters hends]
    rfl

/-- Settles O29: on whole symbols DECODE is its stages on the unstuffed body. -/
theorem decodeReportsTheFirstFailingStage : Obligations.DecodeReportsTheFirstFailingStage := by
  unfold Obligations.DecodeReportsTheFirstFailingStage
  intro body u s hmem hu
  simp only [exec_decode_eq_iff, exec_csumVerify_eq_iff, frameDecode_wireOf hmem hu]
  exact ⟨decodeAdu_eq_frameTooShort_iff, decodeAdu_eq_lengthMismatch_iff, decodeAdu_eq_checksumMismatch_iff⟩

/-- Settles O30: a body of no whole symbols has a bad escape, and DESTUFF comes first. -/
theorem decodePropagatesInvalidEscape : Obligations.DecodePropagatesInvalidEscape := by
  unfold Obligations.DecodePropagatesInvalidEscape
  intro body s hmem hno
  have hbad : HasBadEscape body := (unstuffs_or_hasBadEscape body).resolve_left fun ⟨u, hu⟩ => hno u hu
  refine exec_decode_eq_iff.2 ?_
  rw [wireOf, frameDecode_wrapped hmem, decodeBody, destuff_of_hasBadEscape hbad, andThen_err]

/-- Settles O34: the stuffed body unstuffs to the changed ADU, whose length byte or whose sum is wrong. -/
theorem decodeDetectsEverySingleBitFlip : Obligations.DecodeDetectsEverySingleBitFlip := by
  unfold Obligations.DecodeDetectsEverySingleBitFlip
  intro a c b d before after k s hd hk h
  rw [aduOf_eq_adu] at h
  refine exec_decode_eq_iff.2 ?_
  rw [flatMap_escapeOf, frameDecode_wireOf (delim_not_mem_stuff _) (unstuffs_stuff _)]
  split_ifs with hat
  · exact decodeAdu_length_changed hd (flip_ne hk b) h hat
  · exact decodeAdu_other_changed hd (flip_ne hk b) h hat

end Sys2Proof.Machine
end

section
/-! SUPPORT. The stream parser's further statements (rules R47, R174 to R198): what a delimiter does in every state, what a
run of bytes without one does, and from the two what a span on the wire does. -/

open Sys2Proof.Reference

namespace Sys2Proof.Machine

section
variable {maxBuf : Nat} {ps : ParserState} {b : Byte} {buf bytes body : List Byte}

/-! ### One byte -/

/-- Within a span, at `MAX_BUF`, a byte other than the delimiter overflows (rule R182). -/
theorem feed1_overflows (ht : ps.tag = .accumulating) (hb : b ≠ Config.delim) (hl : maxBuf ≤ ps.buf.length) :
    feed1 maxBuf ps b = (⟨.error, []⟩, [.err .frameTooLarge]) := by
  simp only [feed1, ht, if_neg hb, if_neg (not_lt.2 hl), deliverError_eq, if_true]

/-- What a delimiter makes the parser emit: DECODE's answer on a span that is open and not empty (rules R176, R178). -/
def closingEvents (ps : ParserState) : List Event :=
  if ps.tag = .accumulating ∧ ps.buf ≠ [] then [frameDecode (wireOf ps.buf)] else []

theorem closingEvents_of_span (ht : ps.tag = .accumulating) (hbuf : ps.buf ≠ []) :
    closingEvents ps = [frameDecode (wireOf ps.buf)] := if_pos ⟨ht, hbuf⟩

theorem closingEvents_of_empty (h : ps.buf = []) : closingEvents ps = [] := if_neg fun ⟨_, hbuf⟩ => hbuf h

theorem closingEvents_of_no_span (h : ps.tag ≠ .accumulating) : closingEvents ps = [] := if_neg fun ⟨ht, _⟩ => h ht

/-- After a delimiter the parser accumulates the next span, whatever its state was (rule R194). -/
theorem feed1_delim (maxBuf : Nat) (ps : ParserState) :
    feed1 maxBuf ps Config.delim = (⟨.accumulating, []⟩, closingEvents ps) := by
  by_cases ht : ps.tag = .accumulating
  · obtain ⟨tag, buf⟩ := ps
    cases ht
    cases buf with
    | nil => rfl
    | cons first rest => exact closeSpan_eq _
  · rw [feed1_starts_span ht, closingEvents_of_no_span ht]

/-- The three things one byte can make the parser emit: nothing, DECODE's answer on the span it closes, an overflow. -/
theorem feed1_events_cases (maxBuf : Nat) (ps : ParserState) (b : Byte) :
    (feed1 maxBuf ps b).2 = [] ∨
    (b = Config.delim ∧ feed1 maxBuf ps b = (⟨.accumulating, []⟩, [frameDecode (wireOf ps.buf)])) ∨
    (b ≠ Config.delim ∧ feed1 maxBuf ps b = (⟨.error, []⟩, [.err .frameTooLarge])) := by
  by_cases hb : b = Config.delim
  · subst hb
    by_cases hspan : ps.tag = .accumulating ∧ ps.buf ≠ []
    · exact .inr (.inl ⟨rfl, by rw [feed1_delim, closingEvents, if_pos hspan]⟩)
    · exact .inl (by rw [feed1_delim, closingEvents, if_neg hspan])
  · by_cases ht : ps.tag = .accumulating
    · by_cases hl : ps.buf.length < maxBuf
      · exact .inl (by rw [feed1_stores ht hb hl])
      · exact .inr (.inr ⟨hb, feed1_overflows ht hb (not_lt.1 hl)⟩)
    · exact .inl (by rw [feed1_discards ht hb])

/-- An error event is the only event of its byte, and leaves the parser as rule R211 says. -/
theorem feed1_of_err_mem {e : Error} (h : .err e ∈ (feed1 maxBuf ps b).2) :
    feed1 maxBuf ps b = (⟨if e = .frameTooLarge then .error else .accumulating, []⟩, [.err e]) := by
  rcases feed1_events_cases maxBuf ps b with hnone | ⟨-, hclose⟩ | ⟨-, hover⟩
  · rw [hnone] at h; cases h
  · rw [hclose, List.mem_singleton] at h
    have hne : e ≠ .frameTooLarge := fun he => frameDecode_ne_frameTooLarge _ (he ▸ h.symm)
    rw [hclose, ← h, if_neg hne]
  · rw [hover, List.mem_singleton] at h
    cases h
    exact hover

/-- One byte gives at most one event, and only a delimiter gives one that is no overflow (rule R192). -/
theorem feed1_events_bounded (maxBuf : Nat) (ps : ParserState) (b : Byte) :
    (feed1 maxBuf ps b).2.length ≤ 1 ∧
    ((feed1 maxBuf ps b).2.filter (fun r => r ≠ .err .frameTooLarge)).length ≤ [b].count Config.delim := by
  rcases feed1_events_cases maxBuf ps b with hnone | ⟨rfl, hclose⟩ | ⟨-, hover⟩
  · rw [hnone]; exact ⟨Nat.zero_le 1, Nat.zero_le _⟩
  · rw [hclose]; exact ⟨le_rfl, List.length_filter_le ..⟩
  · rw [hover]; exact ⟨le_rfl, Nat.zero_le _⟩

/-! ### Bytes in a row -/

/-- FEED goes on where it stopped (rule R47). -/
theorem feedBytes_append (maxBuf : Nat) (ps : ParserState) (x y : List Byte) :
    feedBytes maxBuf ps (x ++ y) =
      ((feedBytes maxBuf (feedBytes maxBuf ps x).1 y).1,
       (feedBytes maxBuf ps x).2 ++ (feedBytes maxBuf (feedBytes maxBuf ps x).1 y).2) := by
  induction x generalizing ps with
  | nil => rfl
  | cons b x ih => rw [List.cons_append, feedBytes_cons, ih, feedBytes_cons, List.append_assoc]

/-- Two runs of bytes of which the results are known. -/
theorem feedBytes_append_of_eq {ps' ps'' : ParserState} {x y : List Byte} {events events' : List Event}
    (hx : feedBytes maxBuf ps x = (ps', events)) (hy : feedBytes maxBuf ps' y = (ps'', events')) :
    feedBytes maxBuf ps (x ++ y) = (ps'', events ++ events') := by
  rw [feedBytes_append, hx, hy]

/-- Outside a span everything before a delimiter is dropped (rules R172, R184). -/
theorem feedBytes_discards (ht : ps.tag ≠ .accumulating) (h : Config.delim ∉ bytes) :
    feedBytes maxBuf ps bytes = (ps, []) := by
  induction bytes with
  | nil => rfl
  | cons b rest ih =>
    obtain ⟨hb, hrest⟩ := not_or.1 (mt List.mem_cons.2 h)
    rw [feedBytes_cons, feed1_discards ht (Ne.symm hb), ih hrest]
    rfl

/-- Within a span bytes that fit `MAX_BUF` are buffered in order (rule R180). -/
theorem feedBytes_buffers (h : Config.delim ∉ bytes) (hfit : buf.length + bytes.length ≤ maxBuf) :
    feedBytes maxBuf ⟨.accumulating, buf⟩ bytes = (⟨.accumulating, buf ++ bytes⟩, []) := by
  induction bytes generalizing buf with
  | nil => rw [List.append_nil]; rfl
  | cons b rest ih =>
    obtain ⟨hb, hrest⟩ := not_or.1 (mt List.mem_cons.2 h)
    rw [List.length_cons] at hfit
    have hroom : buf.length < maxBuf := by omega
    have hfit' : (buf ++ [b]).length + rest.length ≤ maxBuf := by
      rw [List.length_append, List.length_singleton]; omega
    rw [feedBytes_cons, feed1_stores rfl (Ne.symm hb) hroom, store_eq, ih hrest hfit', List.append_assoc]
    rfl

/-- Within a span bytes that do not fit `MAX_BUF` overflow once, and the rest of them is dropped (rule R215). -/
theorem feedBytes_overflows (h : Config.delim ∉ bytes) (hne : bytes ≠ []) (hover : maxBuf < buf.length + bytes.length) :
    feedBytes maxBuf ⟨.accumulating, buf⟩ bytes = (⟨.error, []⟩, [.err .frameTooLarge]) := by
  induction bytes generalizing buf with
  | nil => exact absurd rfl hne
  | cons b rest ih =>
    obtain ⟨hb, hrest⟩ := not_or.1 (mt List.mem_cons.2 h)
    rw [List.length_cons] at hover
    rw [feedBytes_cons]
    by_cases hroom : buf.length < maxBuf
    · have hrestne : rest ≠ [] := by rintro rfl; rw [List.length_nil] at hover; omega
      have hover' : maxBuf < (buf ++ [b]).length + rest.length := by
        rw [List.length_append, List.length_singleton]; omega
      rw [feed1_stores rfl (Ne.symm hb) hroom, store_eq, ih hrest hrestne hover']
      rfl
    · rw [feed1_overflows rfl (Ne.symm hb) (not_lt.1 hroom), feedBytes_discards (by decide) hrest]
      rfl

/-- A run without a delimiter gives no event or one overflow (rule R192). -/
theorem feedBytes_events_of_no_delim (maxBuf : Nat) (ps : ParserState) (h : Config.delim ∉ bytes) :
    (feedBytes maxBuf ps bytes).2.length ≤ 1 := by
  obtain ⟨tag, buf⟩ := ps
  by_cases ht : tag = .accumulating
  · subst ht
    by_cases hfit : buf.length + bytes.length ≤ maxBuf
    · rw [feedBytes_buffers h hfit]; exact Nat.zero_le 1
    · by_cases hne : bytes = []
      · rw [hne]; exact Nat.zero_le 1
      · rw [feedBytes_overflows h hne (not_le.1 hfit)]; exact le_rfl
  · rw [feedBytes_discards ht h]; exact Nat.zero_le 1

/-- The bounds on one byte add up. -/
theorem feedBytes_events_bounded (maxBuf : Nat) (ps : ParserState) (bytes : List Byte) :
    (feedBytes maxBuf ps bytes).2.length ≤ bytes.length ∧
    ((feedBytes maxBuf ps bytes).2.filter (fun r => r ≠ .err .frameTooLarge)).length ≤ bytes.count Config.delim := by
  induction bytes generalizing ps with
  | nil => exact ⟨le_rfl, le_rfl⟩
  | cons b rest ih =>
    obtain ⟨hlen, hfilter⟩ := feed1_events_bounded maxBuf ps b
    obtain ⟨hlen', hfilter'⟩ := ih (feed1 maxBuf ps b).1
    rw [feedBytes_cons, List.filter_append, List.length_append, List.length_append, List.length_cons,
      ← List.singleton_append, List.count_append]
    omega

/-! ### Spans on the wire -/

/-- What the parser emits for a delimiter-free body between two delimiters: nothing for an empty one, one overflow for one
past `MAX_BUF`, else what DECODE answers (rules R176, R178, R182). -/
def spanEvents (maxBuf : Nat) (body : List Byte) : List Event :=
  if maxBuf < body.length then [.err .frameTooLarge] else closingEvents ⟨.accumulating, body⟩

theorem spanEvents_of_fits (hne : body ≠ []) (hfit : body.length ≤ maxBuf) :
    spanEvents maxBuf body = [frameDecode (wireOf body)] := by
  rw [spanEvents, if_neg (not_lt.2 hfit), closingEvents_of_span rfl hne]

theorem spanEvents_of_oversized (h : maxBuf < body.length) : spanEvents maxBuf body = [.err .frameTooLarge] := if_pos h

/-- A body and the delimiter that closes it, in a span just started. -/
theorem feedBytes_body (h : Config.delim ∉ body) :
    feedBytes maxBuf ⟨.accumulating, []⟩ (body ++ [Config.delim]) = (⟨.accumulating, []⟩, spanEvents maxBuf body) := by
  rw [feedBytes_append, feedBytes_singleton]
  by_cases hover : maxBuf < body.length
  · have hne : body ≠ [] := by rintro rfl; exact absurd hover (Nat.not_lt_zero maxBuf)
    rw [feedBytes_overflows h hne (by simpa using hover), feed1_delim, closingEvents_of_no_span (by decide),
      spanEvents_of_oversized hover]
    rfl
  · rw [feedBytes_buffers h (by simpa using hover), feed1_delim, spanEvents, if_neg hover]
    rfl

/-- A body between two delimiters, in any state: the first delimiter closes what was open. -/
theorem feedBytes_wireOf (ps : ParserState) (h : Config.delim ∉ body) :
    feedBytes maxBuf ps (wireOf body) = (⟨.accumulating, []⟩, closingEvents ps ++ spanEvents maxBuf body) := by
  rw [wireOf, List.append_assoc]
  exact feedBytes_append_of_eq ((feedBytes_singleton ..).trans (feed1_delim maxBuf ps)) (feedBytes_body h)

/-- A body between two delimiters, when nothing is buffered. -/
theorem feedBytes_wireOf_of_empty (hbuf : ps.buf = []) (h : Config.delim ∉ body) :
    feedBytes maxBuf ps (wireOf body) = (⟨.accumulating, []⟩, spanEvents maxBuf body) := by
  rw [feedBytes_wireOf ps h, closingEvents_of_empty hbuf]
  rfl

/-- The stuffed ADU of a valid frame, when it fits, is received as that frame. -/
theorem spanEvents_stuff_adu {a c : Byte} {d : List Byte} (hd : d.length ≤ 255)
    (hfit : (stuff (adu a c d)).length ≤ maxBuf) : spanEvents maxBuf (stuff (adu a c d)) = [.ok ⟨a, c, d⟩] := by
  have hne : stuff (adu a c d) ≠ [] := by
    rw [← List.length_pos_iff, stuff_length, adu_length]; omega
  rw [spanEvents_of_fits hne hfit, frameDecode_wireOf_adu hd (delim_not_mem_stuff _) (unstuffs_stuff _)]

/-- Three bodies, each between delimiters of its own. -/
theorem feedBytes_three_frames {x y z : List Byte} (hbuf : ps.buf = []) (hx : Config.delim ∉ x)
    (hy : Config.delim ∉ y) (hz : Config.delim ∉ z) :
    feedBytes maxBuf ps (wireOf x ++ wireOf y ++ wireOf z) =
      (⟨.accumulating, []⟩, spanEvents maxBuf x ++ spanEvents maxBuf y ++ spanEvents maxBuf z) :=
  feedBytes_append_of_eq
    (feedBytes_append_of_eq (feedBytes_wireOf_of_empty hbuf hx) (feedBytes_wireOf_of_empty rfl hy))
    (feedBytes_wireOf_of_empty rfl hz)

/-- Three bodies with one delimiter between each two (rule R178). -/
theorem feedBytes_three_frames_shared {x y z : List Byte} (hbuf : ps.buf = []) (hx : Config.delim ∉ x)
    (hy : Config.delim ∉ y) (hz : Config.delim ∉ z) :
    feedBytes maxBuf ps ([0x7E#8] ++ x ++ [0x7E#8] ++ y ++ [0x7E#8] ++ z ++ [0x7E#8]) =
      (⟨.accumulating, []⟩, spanEvents maxBuf x ++ spanEvents maxBuf y ++ spanEvents maxBuf z) := by
  rw [← wireOf, List.append_assoc (wireOf x), List.append_assoc _ z]
  exact feedBytes_append_of_eq
    (feedBytes_append_of_eq (feedBytes_wireOf_of_empty hbuf hx) (feedBytes_body hy)) (feedBytes_body hz)

end

/-! ### FEED, PRESET and runs of the machine -/

/-- FEED does to the machine what the fold does to ParserState. -/
theorem exec_feed_of_eq {s : State} {bytes : List Byte} {ps : ParserState} {events : List Event}
    (h : feedBytes s.maxBuf s.ps bytes = (ps, events)) :
    exec (.feed bytes) s = .next { s with ps := ps, response := some (.events events) } := by
  rw [exec_feed, h]

/-- The delimiter, fed or presented as a symbol, does to the machine what FEED1 does to ParserState. -/
theorem exec_delim_at_parser {s : State} {i : Instr} (hi : i = .feed [Config.delim] ∨ i = .delim .parser) :
    exec i s = .next { s with
      ps := ⟨.accumulating, []⟩
      response := some (.events (closingEvents s.ps)) } :=
  exec_eq_of_feed1_eq (delim_at_parser hi) (feed1_delim s.maxBuf s.ps)

@[simp] theorem exec_preset (s : State) :
    exec .preset s = .next { s with ps := ⟨.idle, []⟩, response := some .done } := rfl

theorem step_nothing {s : State} (h : s.inputs = []) : step s = .next s := by
  simp only [step, State.takeInput, h]

/-- With nothing presented a run of any length changes nothing. -/
theorem run_of_no_inputs {s : State} (h : s.inputs = []) (k : Nat) : Sys2Proof.core.run k s = .next s := by
  induction k with
  | zero => rfl
  | succ k ih => exact (run_succ_of_next core k s s (step_nothing h)).trans ih

/-! ### The parser's statements on one byte -/

/-- Settles O37: a delimiter emits DECODE's answer on a span that is not empty. -/
theorem delimiterClosesANonEmptySpan : Obligations.DelimiterClosesANonEmptySpan := by
  unfold Obligations.DelimiterClosesANonEmptySpan
  intro s i r hi ht hbuf hr
  have hdecode : frameDecode (wireOf s.ps.buf) = r := exec_decode_eq_iff.1 hr
  rw [exec_delim_at_parser hi, closingEvents_of_span ht hbuf, hdecode]

/-- Settles O38: a delimiter emits nothing for an empty span, and the state it leaves is the one it found. -/
theorem delimiterOnAnEmptySpanGivesNoEvent : Obligations.DelimiterOnAnEmptySpanGivesNoEvent := by
  unfold Obligations.DelimiterOnAnEmptySpanGivesNoEvent
  intro s i hi ht hbuf
  have hps : s.ps = ⟨.accumulating, []⟩ := by rw [← ht, ← hbuf]
  rw [exec_delim_at_parser hi, closingEvents_of_empty hbuf, ← hps]

/-- Settles O40: FEED1 overflows at `MAX_BUF`. -/
theorem overflowForcesError : Obligations.OverflowForcesError := by
  unfold Obligations.OverflowForcesError
  exact fun s b i hi ht hb hl => exec_eq_of_feed1_eq hi (feed1_overflows ht hb hl.ge)

/-- Settles O42: a delimiter emits nothing when no span is open. -/
theorem delimiterInErrorResynchronizes : Obligations.DelimiterInErrorResynchronizes := by
  unfold Obligations.DelimiterInErrorResynchronizes
  intro s i hi ht
  have hout : s.ps.tag ≠ .accumulating := by rw [ht]; decide
  rw [exec_delim_at_parser hi, closingEvents_of_no_span hout]

/-- Settles O49: an error event of one byte fixes what FEED1 did. -/
theorem errorEventsLeaveTheStatedParserState : Obligations.ErrorEventsLeaveTheStatedParserState := by
  unfold Obligations.ErrorEventsLeaveTheStatedParserState
  intro s b
  refine ⟨_, _, exec_feed_singleton b s, fun e he => ?_⟩
  rw [feed1_of_err_mem he]
  exact ⟨rfl, rfl⟩

/-- Settles O55: each class of symbol is presented as its byte, and the parser does what FEED of that byte does. -/
theorem symbolsAtTheParserAreFeedsOfOneByte : Obligations.SymbolsAtTheParserAreFeedsOfOneByte := by
  unfold Obligations.SymbolsAtTheParserAreFeedsOfOneByte
  intro s
  have hsymbol (b : Byte) : ∃ t, presentSymbol .parser b s = .next t ∧ exec (.feed [b]) s = .next t :=
    ⟨_, (presentSymbol_parser b s).trans (exec_feed [b] s), exec_feed [b] s⟩
  exact ⟨hsymbol Config.delim, hsymbol Config.esc, hsymbol Config.xon, hsymbol Config.xoff, hsymbol⟩

/-! ### The parser's statements on streams -/

/-- Settles O44: FEED goes on where it stopped. -/
theorem cuttingTheStreamChangesNothing : Obligations.CuttingTheStreamChangesNothing := by
  unfold Obligations.CuttingTheStreamChangesNothing
  exact fun s x y => ⟨_, _, _, _, exec_feed x s, exec_feed y _, exec_feed_of_eq (feedBytes_append s.maxBuf s.ps x y)⟩

/-- Settles O45: whatever was fed before it, a delimiter starts a span. -/
theorem everyDelimiterLeavesAnEmptySpan : Obligations.EveryDelimiterLeavesAnEmptySpan := by
  unfold Obligations.EveryDelimiterLeavesAnEmptySpan
  exact fun s bytes => ⟨_, exec_feed_of_eq
    (feedBytes_append_of_eq rfl ((feedBytes_singleton ..).trans (feed1_delim s.maxBuf _)))⟩

/-- Settles O46: by the bounds on one byte, and because a run without a delimiter overflows at most once. -/
theorem eventsAreBoundedByDelimiters : Obligations.EventsAreBoundedByDelimiters := by
  unfold Obligations.EventsAreBoundedByDelimiters
  intro s bytes
  obtain ⟨hlen, hfilter⟩ := feedBytes_events_bounded s.maxBuf s.ps bytes
  exact ⟨_, _, exec_feed bytes s, hlen, hfilter, feedBytes_events_of_no_delim s.maxBuf s.ps⟩

/-- Settles O47: a run without a delimiter that fits is buffered, and without inputs a step changes nothing. -/
theorem partialFramesPersist : Obligations.PartialFramesPersist := by
  unfold Obligations.PartialFramesPersist
  refine ⟨fun s bytes ht hmem hfit => ?buffers, fun s => run_of_no_inputs⟩
  case buffers =>
    have hps : s.ps = ⟨.accumulating, s.ps.buf⟩ := by rw [← ht]
    exact exec_feed_of_eq (hps ▸ feedBytes_buffers hmem hfit)

/-- Settles O48: a run without a delimiter that does not fit overflows once, and then is dropped. -/
theorem oversizedRunGivesOneError : Obligations.OversizedRunGivesOneError := by
  unfold Obligations.OversizedRunGivesOneError
  refine ⟨fun s bytes ht hmem hbuf hover => ?overflows, fun s bytes ht hmem => ?dropped⟩
  case overflows =>
    have hps : s.ps = ⟨.accumulating, s.ps.buf⟩ := by rw [← ht]
    have hne : bytes ≠ [] := by rintro rfl; rw [List.length_nil] at hover; omega
    exact exec_feed_of_eq (hps ▸ feedBytes_overflows hmem hne hover)
  case dropped =>
    have hout : s.ps.tag ≠ .accumulating := by rw [ht]; decide
    exact exec_feed_of_eq (feedBytes_discards hout hmem)

/-- Settles O50: `Idle` is outside a span, where everything before a delimiter is dropped. -/
theorem idleSkipsToTheFirstDelimiter : Obligations.IdleSkipsToTheFirstDelimiter := by
  unfold Obligations.IdleSkipsToTheFirstDelimiter
  intro s noise rest ht hmem
  have hout : s.ps.tag ≠ .accumulating := by rw [ht]; decide
  have hnoise : feedBytes s.maxBuf s.ps noise = (s.ps, []) := feedBytes_discards hout hmem
  exact ⟨exec_feed_of_eq hnoise, _, exec_feed_of_eq (feedBytes_append_of_eq hnoise rfl), exec_feed _ s⟩

/-- Settles O51: by the equation of PRESET. -/
theorem presetReturnsToIdle : Obligations.PresetReturnsToIdle := by
  unfold Obligations.PresetReturnsToIdle
  exact ⟨rfl, exec_preset⟩

/-- Settles O52: FEED leaves `MAX_BUF` alone and PRESET leaves one ParserState, so that two parsers with the same `MAX_BUF`
feed alike after it. -/
theorem nothingBeforePresetIsEverSeenAfter : Obligations.NothingBeforePresetIsEverSeenAfter := by
  unfold Obligations.NothingBeforePresetIsEverSeenAfter
  intro s t past bytes hmax
  refine ⟨_, _, _, _, _, exec_feed past s, exec_preset _, exec_preset t, exec_feed bytes _, ?_⟩
  rw [exec_feed, hmax]

/-- Settles O53: the body of an encoded frame is its stuffed ADU, received as the frame; the first delimiter closes a stale
span. -/
theorem parserRecoversEveryEncodedFrame : Obligations.ParserRecoversEveryEncodedFrame := by
  unfold Obligations.ParserRecoversEveryEncodedFrame
  intro a c d s hd
  have hbody : (wireOf (stuff (adu a c d))).length - 2 = (stuff (adu a c d)).length := by
    rw [wireOf_length, Nat.add_sub_cancel]
  refine ⟨_, exec_encode_eq_iff.2 (frameEncode_eq_wireOf a c hd), ?_⟩
  rw [hbody]
  refine ⟨stuff_adu_length_le a c hd, fun hfit hbuf => exec_feed_of_eq ?fresh, fun r hfit ht hbuf hr =>
    exec_feed_of_eq ?stale⟩
  case fresh =>
    rw [feedBytes_wireOf_of_empty hbuf (delim_not_mem_stuff _), spanEvents_stuff_adu hd hfit]
  case stale =>
    rw [feedBytes_wireOf _ (delim_not_mem_stuff _), closingEvents_of_span ht hbuf, exec_decode_eq_iff.1 hr,
      spanEvents_stuff_adu hd hfit]
    rfl

/-- Settles O54: each of the three bodies gives the events of its own span. -/
theorem parserResynchronizesAfterABadFrame : Obligations.ParserResynchronizesAfterABadFrame := by
  unfold Obligations.ParserResynchronizesAfterABadFrame
  intro a c a' c' d d' s hd hd'
  refine ⟨_, _, exec_encode_eq_iff.2 (frameEncode_eq_wireOf a c hd),
    exec_encode_eq_iff.2 (frameEncode_eq_wireOf a' c' hd'), fun hfit hfit' hbuf bad hne hmem => ⟨?bad, ?oversized⟩⟩
  case bad =>
    intro e hbad hr
    have hspan : spanEvents s.maxBuf bad = [.err e] := by
      rw [spanEvents_of_fits hne hbad, exec_decode_eq_iff.1 hr]
    refine ⟨exec_feed_of_eq ?apart, exec_feed_of_eq ?shared⟩
    case apart =>
      rw [feedBytes_three_frames hbuf (delim_not_mem_stuff _) hmem (delim_not_mem_stuff _),
        spanEvents_stuff_adu hd hfit, hspan, spanEvents_stuff_adu hd' hfit']
      rfl
    case shared =>
      rw [feedBytes_three_frames_shared hbuf (delim_not_mem_stuff _) hmem (delim_not_mem_stuff _),
        spanEvents_stuff_adu hd hfit, hspan, spanEvents_stuff_adu hd' hfit']
      rfl
  case oversized =>
    intro hover
    refine exec_feed_of_eq ?_
    rw [feedBytes_three_frames hbuf (delim_not_mem_stuff _) hmem (delim_not_mem_stuff _),
      spanEvents_stuff_adu hd hfit, spanEvents_of_oversized hover, spanEvents_stuff_adu hd' hfit']
    rfl

end Sys2Proof.Machine
end

section
/-! SUPPORT. The whole machine's statements (rules R23, R26, R34, R203): what every instruction delivers and leaves in the
parser, and from it what every step and every run keeps. -/

open Sys2Proof.Reference

namespace Sys2Proof.Machine

/-! ### What each operation delivers -/

theorem frameEncode_err {a c : Byte} {d : List Byte} {e : Error} (h : frameEncode a c d = .err e) :
    e = .dataTooLong := by
  by_cases hd : d.length ≤ 255
  · rw [frameEncode_short hd] at h; cases h
  · rw [frameEncode_long (not_le.1 hd)] at h; cases h; rfl

theorem responseValid_destuff (x : List Byte) : responseValid (.bytes (destuff x)) = true := by
  cases h : destuff x with
  | ok out => rfl
  | err e => rw [destuff_err h]; rfl

theorem responseValid_frameEncode (a c : Byte) (d : List Byte) :
    responseValid (.bytes (frameEncode a c d)) = true := by
  cases h : frameEncode a c d with
  | ok w => rfl
  | err e => rw [frameEncode_err h]; rfl

theorem responseValid_frameDecode (w : List Byte) : responseValid (.frame (frameDecode w)) = true := by
  cases h : frameDecode w with
  | ok f => exact decide_eq_true (frameDecode_eq_ok_iff.1 h).1
  | err e => exact decide_eq_true (frameDecode_err h)

/-- What DECODE answers on a body without a delimiter is an event FEED can deliver (rule R203). -/
theorem eventValid_frameDecode_wireOf {body : List Byte} (h : Config.delim ∉ body) :
    eventValid (frameDecode (wireOf body)) = true := by
  cases hr : frameDecode (wireOf body) with
  | ok f => exact decide_eq_true (frameDecode_eq_ok_iff.1 hr).1
  | err e =>
    rw [wireOf, frameDecode_wrapped h] at hr
    have hsub : [Error.invalidEscape, .frameTooShort, .lengthMismatch, .checksumMismatch] ⊆ feedErrors := by decide
    exact decide_eq_true (hsub (decodeBody_err hr))

/-! ### The parser's invariant (rule R23) -/

section
variable {maxBuf : Nat} {ps : ParserState}

theorem inv_of_empty (h : ps.buf = []) : ps.Inv maxBuf := ⟨fun _ => h, fun _ => h, h ▸ wf_clear maxBuf []⟩

theorem inv_accumulating {buf : Memory} (h : buf.wf maxBuf = true) : ParserState.Inv maxBuf ⟨.accumulating, buf⟩ :=
  ⟨nofun, nofun, h⟩

/-- One byte keeps the invariant: a delimiter and an overflow empty the buffer, a store keeps its form. -/
theorem feed1_inv (h : ps.Inv maxBuf) (b : Byte) : (feed1 maxBuf ps b).1.Inv maxBuf := by
  by_cases hb : b = Config.delim
  · rw [hb, feed1_delim]
    exact inv_of_empty rfl
  · by_cases ht : ps.tag = .accumulating
    · obtain ⟨tag, buf⟩ := ps
      cases ht
      obtain ⟨-, -, hwf⟩ := h
      by_cases hl : buf.length < maxBuf
      · rw [feed1_stores rfl hb hl]
        exact inv_accumulating (wf_store hwf hb hl)
      · rw [feed1_overflows rfl hb (not_lt.1 hl)]
        exact inv_of_empty rfl
    · rw [feed1_discards ht hb]
      exact h

/-- The events of one byte are events FEED can deliver, because no delimiter is buffered. -/
theorem feed1_events_valid (h : ps.Inv maxBuf) (b : Byte) : ∀ r ∈ (feed1 maxBuf ps b).2, eventValid r = true := by
  obtain ⟨-, -, hwf⟩ := h
  obtain ⟨hmem, -⟩ := wf_iff.1 hwf
  rcases feed1_events_cases maxBuf ps b with hnone | ⟨-, hclose⟩ | ⟨-, hover⟩
  · rw [hnone]; nofun
  · rw [hclose, List.forall_mem_singleton]
    exact eventValid_frameDecode_wireOf hmem
  · rw [hover, List.forall_mem_singleton]
    rfl

/-- FEED keeps the invariant and delivers what it can deliver. -/
theorem feedBytes_safe (h : ps.Inv maxBuf) (bytes : List Byte) :
    (feedBytes maxBuf ps bytes).1.Inv maxBuf ∧ ∀ r ∈ (feedBytes maxBuf ps bytes).2, eventValid r = true := by
  induction bytes generalizing ps with
  | nil => exact ⟨h, nofun⟩
  | cons b rest ih =>
    obtain ⟨hinv, hvalid⟩ := ih (feed1_inv h b)
    rw [feedBytes_cons]
    exact ⟨hinv, List.forall_mem_append.2 ⟨feed1_events_valid h b, hvalid⟩⟩

end

/-! ### Instructions and steps -/

/-- What `exec_completes` says, and that what is written and delivered is safe. -/
def CompletesSafely (s : State) (o : Host.Outcome State Fault Refusal) : Prop :=
  ∃ ps r, o = .next ((s.setParser ps).respond r) ∧ ps.Inv s.maxBuf ∧ responseValid r = true

/-- An operation that only answers completes safely when its answer is valid. -/
theorem completesSafely_respond {s : State} {r : Response} (h : s.ps.Inv s.maxBuf) (hr : responseValid r = true) :
    CompletesSafely s (.next (s.respond r)) := ⟨s.ps, r, rfl, h, hr⟩

theorem execFeed_completesSafely (bytes : List Byte) {s : State} (h : s.ps.Inv s.maxBuf) :
    CompletesSafely s (execFeed bytes s) := by
  obtain ⟨hinv, hvalid⟩ := feedBytes_safe h bytes
  exact ⟨_, _, rfl, hinv, List.all_eq_true.2 hvalid⟩

theorem presentSymbol_completesSafely (port : Port) (b : Byte) {s : State} (h : s.ps.Inv s.maxBuf) :
    CompletesSafely s (presentSymbol port b s) := by
  cases port with
  | parser => rw [presentSymbol_parser]; exact execFeed_completesSafely [b] h
  | stuffer => exact completesSafely_respond h rfl
  | destuffer => exact completesSafely_respond h (responseValid_destuff [b])

/-- Every instruction completes safely where the parser's invariant holds. -/
theorem exec_completesSafely (i : Instr) {s : State} (h : s.ps.Inv s.maxBuf) : CompletesSafely s (exec i s) := by
  cases i with
  | stuff | csumCompute | csumVerify => exact completesSafely_respond h rfl
  | destuff x => exact completesSafely_respond h (responseValid_destuff x)
  | encode a c d => exact completesSafely_respond h (responseValid_frameEncode a c d)
  | decode w => exact completesSafely_respond h (responseValid_frameDecode w)
  | feed bytes => exact execFeed_completesSafely bytes h
  | preset => exact ⟨s.ps.toIdle, .done, rfl, inv_of_empty rfl, rfl⟩
  | delim port | esc port | xon port | xoff port | lit port => exact presentSymbol_completesSafely port _ h
  | escDelim | escEsc | escXon | escXoff | escBad => exact completesSafely_respond h (responseValid_destuff _)

/-- An instruction keeps a safe state safe. -/
theorem exec_inv {i : Instr} {s t : State} (h : s.Inv) (hexec : exec i s = .next t) : t.Inv := by
  obtain ⟨ps, r, hnext, hinv, hvalid⟩ := exec_completesSafely i h.1
  rw [hnext] at hexec
  cases hexec
  exact ⟨hinv, hvalid⟩

/-- A step keeps a safe state safe: nothing, a reset, or an instruction at the state without its request. -/
theorem step_inv {s t : State} (h : s.Inv) (hstep : step s = .next t) : t.Inv := by
  rcases step_eq_next hstep with ⟨-, rfl⟩ | ⟨rest, -, rfl⟩ | ⟨r, rest, i, -, -, hexec⟩
  · exact h
  · exact ⟨inv_of_empty rfl, h.2⟩
  · exact exec_inv (s := { s with inputs := rest }) h hexec

/-- An instruction touches neither `MAX_BUF` nor the queue. -/
theorem exec_frame {i : Instr} {s t : State} (h : exec i s = .next t) : t.maxBuf = s.maxBuf ∧ t.inputs = s.inputs := by
  obtain ⟨ps, r, hnext⟩ := exec_completes i s
  rw [hnext] at h
  cases h
  exact ⟨rfl, rfl⟩

/-- A step leaves `MAX_BUF` and takes the first input away (rule R26). -/
theorem step_frame {s t : State} (h : step s = .next t) : t.maxBuf = s.maxBuf ∧ t.inputs = s.inputs.drop 1 := by
  rcases step_eq_next h with ⟨hin, rfl⟩ | ⟨rest, hin, rfl⟩ | ⟨r, rest, i, hin, -, hexec⟩
  · rw [hin]; exact ⟨rfl, rfl⟩
  · rw [hin]; exact ⟨rfl, rfl⟩
  · obtain ⟨hmax, hqueue⟩ := exec_frame hexec
    rw [hin]
    exact ⟨hmax, hqueue⟩

section
variable {s : State} {r : Request} {rest : List Input} {i : Instr}

/-- A step performs the instruction presented first, at the state without its request. -/
theorem step_request (hin : s.inputs = .request r :: rest) (hr : decode r = .ok i) :
    step s = exec i { s with inputs := rest } := by
  simp only [step, State.takeInput, hin, hr]

theorem step_request_refused {e : DecodeError} (hin : s.inputs = .request r :: rest) (hr : decode r = .error e) :
    step s = .refused (.undecodable e) := by
  simp only [step, State.takeInput, hin, hr]

theorem step_reset (hin : s.inputs = .reset :: rest) :
    step s = .next { s with ps := ⟨.idle, []⟩, inputs := rest } := by
  simp only [step, State.takeInput, hin]
  rfl

end

/-- Everything presented names an instruction. -/
def Decodable (inputs : List Input) : Prop := ∀ r, Input.request r ∈ inputs → ∃ i, decode r = .ok i

theorem Decodable.drop {inputs : List Input} (h : Decodable inputs) (n : Nat) : Decodable (inputs.drop n) :=
  fun r hr => h r (List.mem_of_mem_drop hr)

/-- When everything presented names an instruction a step answers next. -/
theorem step_progress {s : State} (h : Decodable s.inputs) : ∃ t, step s = .next t := by
  cases hin : s.inputs with
  | nil => exact ⟨s, step_nothing hin⟩
  | cons input rest =>
    cases input with
    | reset => exact ⟨_, step_reset hin⟩
    | request r =>
      obtain ⟨i, hr⟩ := h r (by rw [hin]; exact List.mem_cons_self)
      obtain ⟨ps, resp, hexec⟩ := exec_completes i { s with inputs := rest }
      exact ⟨_, (step_request hin hr).trans hexec⟩

/-- A run from a safe state with everything decodable stays safe, by progress and preservation. -/
theorem run_safe {s : State} (h : s.Inv) (hdec : Decodable s.inputs) (k : Nat) :
    ∃ t : State, Sys2Proof.core.run k s = .next t ∧ t.Inv := by
  induction k generalizing s with
  | zero => exact ⟨s, rfl, h⟩
  | succ k ih =>
    obtain ⟨u, hstep⟩ := step_progress hdec
    have hqueue : Decodable u.inputs := (step_frame hstep).2 ▸ hdec.drop 1
    obtain ⟨t, hrun, ht⟩ := ih (step_inv h hstep) hqueue
    exact ⟨t, (run_succ_of_next Sys2Proof.core k s u hstep).trans hrun, ht⟩

/-! ### The whole machine's statements -/

/-- Settles O7: by cases on what the step did. -/
theorem everyStepKeepsTheStateSafe : Obligations.EveryStepKeepsTheStateSafe := by
  unfold Obligations.EveryStepKeepsTheStateSafe
  exact fun s t => step_inv

/-- Settles O9: a step answers next and keeps both the invariant and the premise, so a run of any length does. -/
theorem everyDecodableRunStaysSafe : Obligations.EveryDecodableRunStaysSafe := by
  unfold Obligations.EveryDecodableRunStaysSafe
  exact fun s => run_safe

/-- Settles O10: by the frames of an instruction and of a step. -/
theorem stepsKeepTheParameterAndTheQueue : Obligations.StepsKeepTheParameterAndTheQueue := by
  unfold Obligations.StepsKeepTheParameterAndTheQueue
  refine ⟨fun i s => ?_, fun s t => step_frame⟩
  obtain ⟨ps, r, hnext⟩ := exec_completes i s
  exact ⟨_, hnext, exec_frame hnext⟩

/-- Settles O12: each operation's errors, and for FEED that every event is one it can deliver. -/
theorem eachOperationDeliversOnlyItsOwnErrors : Obligations.EachOperationDeliversOnlyItsOwnErrors := by
  unfold Obligations.EachOperationDeliversOnlyItsOwnErrors
  refine ⟨fun x s => ⟨_, exec_destuff x s, fun e => destuff_err⟩,
    fun a c d s => ⟨_, exec_encode a c d s, fun e => frameEncode_err⟩,
    fun w s => ⟨_, exec_decode w s, fun e => frameDecode_err⟩,
    fun bytes s h => ⟨_, _, exec_feed bytes s, fun e he => ?_⟩⟩
  exact of_decide_eq_true ((feedBytes_safe h bytes).2 _ he)

/-- Settles O1: by the four equations of a step. -/
theorem stepPerformsTheFirstInput : Obligations.StepPerformsTheFirstInput := by
  unfold Obligations.StepPerformsTheFirstInput
  exact ⟨fun _ _ _ _ => step_request, fun _ _ => step_reset, fun _ _ _ _ => step_request_refused,
    fun _ => step_nothing⟩

/-- Settles O5: a reset writes the reset value of ParserState alone, and so does PRESET. -/
theorem resetAndPresetLeaveIdleWithAnEmptyBuffer : Obligations.ResetAndPresetLeaveIdleWithAnEmptyBuffer := by
  unfold Obligations.ResetAndPresetLeaveIdleWithAnEmptyBuffer
  exact ⟨rfl, fun s => ⟨hardwareReset_ps s, hardwareReset_maxBuf s⟩, fun s => ⟨_, exec_preset s, rfl, rfl⟩⟩

/-- Settles O6: nothing is buffered at reset, and nothing was delivered. -/
theorem safeStateAtReset : Obligations.SafeStateAtReset := by
  unfold Obligations.SafeStateAtReset
  exact ⟨inv_of_empty rfl, rfl⟩

end Sys2Proof.Machine
end
